-- ==== Sys2Proof/Word.lean ====
section
/-!
DEFINITION. The value types of the block: bytes, packed words, color tuples and sparse storage.
`00_scope.md` R9 (u8, u16, u32), `10_state.md` R33, R34, R36.
-/
namespace Sys2Proof

/-- A channel value or a command-buffer byte: u8 (R9, glossary "Channel value"). -/
abbrev Byte := BitVec 8

/-- A packed pixel: always a u32 (R36). -/
abbrev Word := BitVec 32

/-- Storage of `w`-bit cells by index: a list of (index, value) pairs in the canonical form
`Memory.wf`. An index that is not listed holds 0, the spec's reset contents of both spaces (R33, R34). -/
abbrev Memory (w : Nat) := List (Nat × BitVec w)

/-- Three channel values: a color before desaturation, a correction profile, a rainbow endpoint. -/
structure Rgb where
  r : Byte
  g : Byte
  b : Byte
deriving DecidableEq, Repr

/-- Four channel values: what the desaturation stage and all later stages carry (R178 to R186). -/
structure Rgbw where
  r : Byte
  g : Byte
  b : Byte
  w : Byte
deriving DecidableEq, Repr

/-- The channels a wire order names (`10_state.md` R23, R36). -/
inductive Channel where
  | red
  | green
  | blue
  | white
deriving DecidableEq, Repr

end Sys2Proof
end

