-- ==== Sys2Proof/Syntax.lean ====
section
/-!
DEFINITION. The four wire commands (`30_encoding.md` R80 to R86), one constructor per row of
`spec/opcode_table.json`. The declared length `len` is carried because it is a field of every
header (R80); it takes no part in selection or in any meaning (R86, R152).
-/
namespace Sys2Proof

/-- One pixel of a render payload, uninterpreted: (r, g, b) for RGB, (h, s, v) for HSV (R83). -/
structure Triple where
  p0 : Byte
  p1 : Byte
  p2 : Byte
deriving DecidableEq, Repr

/-- The commands. `stop` is the spec's operand `end`; `pixels` are the payload triples in order. -/
inductive Instr where
  /-- CAL, Calibration (R81, R143). -/
  | cal (len : BitVec 16) (corr : Rgb) (bright : Byte)
  /-- RGB, RenderRGB (R83, R146). -/
  | rgb (len : BitVec 16) (corr : Rgb) (sat bright : Byte) (start stop : BitVec 16) (pixels : List Triple)
  /-- HSV, RenderHSV (R83, R149). -/
  | hsv (len : BitVec 16) (corr : Rgb) (sat bright : Byte) (start stop : BitVec 16) (pixels : List Triple)
  /-- WRITE, WriteLEDs (R84, R150). -/
  | write (len : BitVec 16)
deriving DecidableEq, Repr

end Sys2Proof
end

