-- ==== Sys2Proof/WellFormed.lean ====
section
/-!
DEFINITION. Which commands an encoding can carry. A render command carries at most one triple per
LED of its declared range: `30_encoding.md` R83 gives "3 bytes per LED (r,g,b), for `end-start`
LEDs", and R88 says that triples beyond the range are never read, so they are no operand.
A command may carry fewer triples (R152); it is then one that the dispatcher completes from the
bytes the buffer already holds (R55).
-/
namespace Sys2Proof

/-- The payload fits the declared range. -/
def payloadFits (start stop : BitVec 16) (pixels : List Triple) : Bool :=
  decide (pixels.length ≤ stop.toNat - start.toNat)

/-- Well-formed commands. -/
def Instr.wf : Instr → Bool
  | .cal _ _ _ => true
  | .rgb _ _ _ _ start stop pixels => payloadFits start stop pixels
  | .hsv _ _ _ _ start stop pixels => payloadFits start stop pixels
  | .write _ => true

/-- The payload fills the declared range: one triple for each of the `end - start` LEDs (R83). -/
def payloadFills (start stop : BitVec 16) (pixels : List Triple) : Bool :=
  decide (pixels.length = stop.toNat - start.toNat)

/-- Commands that carry all their triples, so that no byte outside them is an operand (R83, R88). -/
def Instr.complete : Instr → Bool
  | .cal _ _ _ => true
  | .rgb _ _ _ _ start stop pixels => payloadFills start stop pixels
  | .hsv _ _ _ _ start stop pixels => payloadFills start stop pixels
  | .write _ => true

end Sys2Proof
end

