-- ==== Sys2Proof/Decode.lean ====
section
/-!
DEFINITION. Decoding and encoding of commands, with the byte-order helpers both use.
`30_encoding.md` R80 to R91; the dispatcher's two tests are `41_command_dispatch.md` R140, R141.
-/
namespace Sys2Proof

/-! ### Byte order (R53, R85: big-endian, the more significant byte first) -/

/-- `u16be(a, b) = a*256 + b` (R10). -/
def u16be (hi lo : Byte) : BitVec 16 := hi ++ lo

/-- The more significant byte of a u16: `x div 256` (R90). -/
def hiByte (x : BitVec 16) : Byte := x.extractLsb' 8 8

/-- The less significant byte of a u16: `x mod 256` (R90). -/
def loByte (x : BitVec 16) : Byte := x.extractLsb' 0 8

/-- The header word `H = buf[0] : buf[1] : buf[2] : buf[3]` (R80). -/
def headerWord (b0 b1 b2 b3 : Byte) : Word := b0 ++ b1 ++ b2 ++ b3

/-! ### Decoding -/

/-- Why a buffer holds no command. -/
inductive Reject where
  /-- MARK is not 0x00: E_MARK_DGRAM, the command is ignored (R87, R140). -/
  | badMark (b : Byte)
  /-- TYPE is 4 or more: E_TYPE_DGRAM, the command is ignored (R87, R141). -/
  | badType (b : Byte)
  /-- The bytes end inside the fixed fields. Never a full command buffer, which has 67 bytes or more (R7). -/
  | truncated
deriving DecidableEq, Repr

/-- At most `n` whole triples from the front of a payload: pixel k is the bytes 3k, 3k+1, 3k+2 (R83). -/
def takeTriples : Nat → List Byte → List Triple
  | n + 1, p0 :: p1 :: p2 :: rest => ⟨p0, p1, p2⟩ :: takeTriples n rest
  | _, _ => []

/-- Format CAL after MARK and TYPE (R81). -/
def decodeCal : List Byte → Except Reject Instr
  | l1 :: l0 :: cr :: cg :: cb :: br :: _ => .ok (.cal (u16be l1 l0) ⟨cr, cg, cb⟩ br)
  | _ => .error .truncated

/-- Format RENDER after MARK and TYPE (R83); `mk` is the constructor of the type. The command has
`end - start` triples, or as many of them as the bytes hold. -/
def decodeRender
    (mk : BitVec 16 → Rgb → Byte → Byte → BitVec 16 → BitVec 16 → List Triple → Instr) :
    List Byte → Except Reject Instr
  | l1 :: l0 :: cr :: cg :: cb :: sat :: br :: s1 :: s0 :: e1 :: e0 :: payload =>
    .ok (mk (u16be l1 l0) ⟨cr, cg, cb⟩ sat br (u16be s1 s0) (u16be e1 e0)
      (takeTriples ((u16be e1 e0).toNat - (u16be s1 s0).toNat) payload))
  | _ => .error .truncated

/-- Format WRITE after MARK and TYPE (R84). -/
def decodeWrite : List Byte → Except Reject Instr
  | l1 :: l0 :: _ => .ok (.write (u16be l1 l0))
  | _ => .error .truncated

/-- Selection by TYPE (R86). -/
def decodeType (type : Byte) (rest : List Byte) : Except Reject Instr :=
  match type.toNat with
  | 0 => decodeCal rest
  | 1 => decodeRender .rgb rest
  | 2 => decodeRender .hsv rest
  | 3 => decodeWrite rest
  | _ => .error (.badType type)

/-- The command at the front of a buffer: MARK first, then TYPE, as `Dispatch()` tests them (R140). -/
def decode : List Byte → Except Reject Instr
  | mark :: type :: rest => if mark = 0x00#8 then decodeType type rest else .error (.badMark mark)
  | _ => .error .truncated

/-! ### Encoding -/

/-- The TYPE byte of a command (R86). -/
def Instr.typeByte : Instr → Byte
  | .cal _ _ _ => 0x00#8
  | .rgb _ _ _ _ _ _ _ => 0x01#8
  | .hsv _ _ _ _ _ _ _ => 0x02#8
  | .write _ => 0x03#8

/-- The DLEN field of a command (R80). -/
def Instr.declared : Instr → BitVec 16
  | .cal len _ _ => len
  | .rgb len _ _ _ _ _ _ => len
  | .hsv len _ _ _ _ _ _ => len
  | .write len => len

/-- The payload bytes of triples, in order (R83). -/
def tripleBytes : List Triple → List Byte
  | [] => []
  | t :: ts => t.p0 :: t.p1 :: t.p2 :: tripleBytes ts

/-- The bytes of format RENDER from offset 4 on (R83). -/
def renderBytes (corr : Rgb) (sat bright : Byte) (start stop : BitVec 16) (pixels : List Triple) :
    List Byte :=
  corr.r :: corr.g :: corr.b :: sat :: bright :: hiByte start :: loByte start ::
    hiByte stop :: loByte stop :: tripleBytes pixels

/-- The bytes of a command from offset 4 on (R81, R83, R84). -/
def Instr.payload : Instr → List Byte
  | .cal _ corr bright => [corr.r, corr.g, corr.b, bright]
  | .rgb _ corr sat bright start stop pixels => renderBytes corr sat bright start stop pixels
  | .hsv _ corr sat bright start stop pixels => renderBytes corr sat bright start stop pixels
  | .write _ => []

/-- The bytes of a command: the 4-byte header of R80, then the payload. -/
def encode (i : Instr) : List Byte :=
  0x00#8 :: i.typeByte :: hiByte i.declared :: loByte i.declared :: i.payload

/-- The nominal declared length of a command: 8 for CAL, 13 + 3n for RGB and HSV with n triples, 4
for WRITE (R81, R83, R84, R90). -/
def Instr.nominalLen : Instr → Nat
  | .cal _ _ _ => 8
  | .rgb _ _ _ _ _ _ pixels => 13 + 3 * pixels.length
  | .hsv _ _ _ _ _ _ pixels => 13 + 3 * pixels.length
  | .write _ => 4

/-- The same command with another declared length: `<packet> LEN=d` (R90). -/
def Instr.withDeclared (i : Instr) (d : BitVec 16) : Instr :=
  match i with
  | .cal _ corr bright => .cal d corr bright
  | .rgb _ corr sat bright start stop pixels => .rgb d corr sat bright start stop pixels
  | .hsv _ corr sat bright start stop pixels => .hsv d corr sat bright start stop pixels
  | .write _ => .write d

/-- The packet notation of R90 without `LEN=d`: the command's bytes with its nominal declared
length. "The notation refuses a form whose `D` exceeds 65535." -/
def packet (i : Instr) : Option (List Byte) :=
  if i.nominalLen ≤ 65535 then
    some (encode (i.withDeclared (BitVec.ofNat 16 i.nominalLen)))
  else none

/-! ### The host's view of the opcode table -/

/-- The four bytes of the header word with value `v`, as they lie in the buffer: `v[31:24]` at the
lowest offset (R80). -/
def wordBytes (v : Nat) : List Byte :=
  [BitVec.ofNat 8 (v / 16777216), BitVec.ofNat 8 (v / 65536), BitVec.ofNat 8 (v / 256), BitVec.ofNat 8 v]

/-- `k` 32-bit words taken from `w`, the first from its low bits, each laid out big-endian. -/
def tableWords : Nat → Nat → List Byte
  | 0, _ => []
  | k + 1, w => wordBytes w ++ tableWords k (w / 4294967296)

/-- The bytes of an opcode-table instruction of `nbits` bits with the value `w`. -/
def tableBytes (nbits w : Nat) : List Byte := tableWords ((nbits + 31) / 32) (w % 2 ^ nbits)

/-- The longest byte sequence a command's fields can span: the 13 fixed bytes and one triple for
each of 65535 LEDs (R83). -/
def longestCommand : Nat := 13 + 3 * 65535

/-- The command this decoder reads from an opcode-table instruction, every later byte 0. -/
def decodeTableWord (nbits w : Nat) : Option Instr :=
  match decode (tableBytes nbits w ++ List.replicate longestCommand 0x00#8) with
  | .ok i => some i
  | .error _ => none

end Sys2Proof
end

