-- ==== Sys2Proof/Config.lean ====
section
/-!
DEFINITION. What an implementation fixes (`00_scope.md` R6): the configuration latched at reset
(`10_state.md` R21 to R24) and the design-time rainbow table (`42_color_transform.md` R174).
Both are plain data held in State, so every statement about a state is a statement about every
configuration and every table (assumption log 1 and 3). The block has no free value: the spec calls
no result undefined (`93_implementation_defined.md` section 1).
-/
namespace Sys2Proof

/-- The fields of CFG (R24). -/
structure Config where
  /-- `N`, the pixel count: CFG[15:0] (R22). -/
  n : BitVec 16
  /-- `HAS_WHITE`: CFG[16] (R21). -/
  hasWhite : Bool
  /-- `LANE_R`: CFG[22:21] (R23). -/
  laneR : BitVec 2
  /-- `LANE_G`: CFG[20:19] (R23). -/
  laneG : BitVec 2
  /-- `LANE_B`: CFG[18:17] (R23). -/
  laneB : BitVec 2
  /-- `LANE_W`: CFG[24:23] (R23). -/
  laneW : BitVec 2
deriving DecidableEq, Repr

/-- The open entries 2 to 7 of `RAINBOW_ENDPOINTS`, named by their sectors (R174). Entries 0 and 1
are fixed by the source and so are no part of the parameter (R6). -/
structure RainbowTable where
  yellow : Rgb
  green : Rgb
  aqua : Rgb
  blue : Rgb
  purple : Rgb
  pink : Rgb
deriving DecidableEq, Repr

/-- The default of R174. PRESUMED: the spec marks these six entries [from general knowledge, not in
source] (G1 to G6; assumption log 3). -/
def RainbowTable.default : RainbowTable where
  yellow := ⟨171#8, 170#8, 0#8⟩
  green := ⟨0#8, 255#8, 0#8⟩
  aqua := ⟨0#8, 171#8, 85#8⟩
  blue := ⟨0#8, 0#8, 255#8⟩
  purple := ⟨85#8, 0#8, 171#8⟩
  pink := ⟨170#8, 0#8, 85#8⟩

/-- The configuration `State.reset` samples. DESIGN CHOICE (assumption log 2): the spec leaves CFG to
the environment; these are N, HAS_WHITE and the lanes of program P1 of `95_test_vectors.md` (N = 4, RGB,
GRB). -/
def Config.example : Config where
  n := 4#16
  hasWhite := false
  laneR := 1#2
  laneG := 2#2
  laneB := 0#2
  laneW := 3#2

end Sys2Proof
end

