-- ==== Sys2Proof/Machine/Color.lean ====
section
/-!
DEFINITION. The color transform engine: pure functions of one sample, the correction profile and
HAS_WHITE (`42_color_transform.md` R170 to R185). Each result is computed exactly on naturals and
then narrowed to a channel; R11 says that no narrowing loses anything.
-/
namespace Sys2Proof.Machine

/-- `scale(a, b) = (a*b) div 255` (R170). -/
def scale (a b : Byte) : Byte := BitVec.ofNat 8 (a.toNat * b.toNat / 255)

/-! ### The rainbow map -/

/-- `sector = h[7:5]` (R172). -/
def hueSector (h : Byte) : BitVec 3 := h.extractLsb' 5 3

/-- `off = h[4:0]` (R172). -/
def hueOffset (h : Byte) : Nat := (h.extractLsb' 0 5).toNat

/-- `third = (off * 8) div 3` (R172). -/
def hueThird (h : Byte) : Nat := hueOffset h * 8 / 3

/-- `E[k]`, the color at hue 32k: entries 0 and 1 fixed, the others from the table (R174). -/
def endpoint (t : RainbowTable) (k : BitVec 3) : Rgb :=
  match k.toNat with
  | 0 => ⟨255#8, 0#8, 0#8⟩
  | 1 => ⟨171#8, 85#8, 0#8⟩
  | 2 => t.yellow
  | 3 => t.green
  | 4 => t.aqua
  | 5 => t.blue
  | 6 => t.purple
  | _ => t.pink

/-- `(S*(85 - third) + T*third) div 85` (R175). -/
def interpolate (third : Nat) (a b : Byte) : Byte :=
  BitVec.ofNat 8 ((a.toNat * (85 - third) + b.toNat * third) / 85)

/-- `rainbow(h)`: from `E[sector]` toward `E[(sector + 1) mod 8]` (R173, R175). -/
def rainbow (t : RainbowTable) (h : Byte) : Rgb :=
  let a := endpoint t (hueSector h)
  let b := endpoint t (hueSector h + 1#3)
  ⟨interpolate (hueThird h) a.r b.r, interpolate (hueThird h) a.g b.g, interpolate (hueThird h) a.b b.b⟩

/-! ### Value squaring -/

/-- `vsq(v)` (R176). -/
def vsq (v : Byte) : Byte := if scale v v = 0#8 ∧ v ≠ 0#8 then 1#8 else scale v v

/-! ### Desaturation and white extraction -/

/-- `avg = (r + g + b) div 3` (R179). -/
def average (c : Rgb) : Byte := BitVec.ofNat 8 ((c.r.toNat + c.g.toNat + c.b.toNat) / 3)

/-- One channel of BLEND: `scale(c, sigma) + scale(avg, 255 - sigma)` (R179). -/
def blendChannel (avg sigma x : Byte) : Byte :=
  BitVec.ofNat 8 ((scale x sigma).toNat + (scale avg (255#8 - sigma)).toNat)

/-- `BLEND(r, g, b, sigma)` (R179). -/
def blend (c : Rgb) (sigma : Byte) : Rgb :=
  ⟨blendChannel (average c) sigma c.r, blendChannel (average c) sigma c.g, blendChannel (average c) sigma c.b⟩

/-- `min(a, b)` on channel values. -/
def minByte (a b : Byte) : Byte := if a.toNat ≤ b.toNat then a else b

/-- `EXTRACT(r', g', b')`: the smallest channel moves to white (R180). -/
def extract (c : Rgb) : Rgbw :=
  let m := minByte c.r (minByte c.g c.b)
  ⟨c.r - m, c.g - m, c.b - m, m⟩

/-- `DESAT(r, g, b, sigma)` (R178): the two fixed points first, then BLEND, then EXTRACT on RGBW. -/
def desat (hasWhite : Bool) (c : Rgb) (sigma : Byte) : Rgbw :=
  if sigma = 255#8 then ⟨c.r, c.g, c.b, 0#8⟩
  else if sigma = 0#8 then
    if hasWhite then ⟨0#8, 0#8, 0#8, 255#8⟩ else ⟨255#8, 255#8, 255#8, 0#8⟩
  else if hasWhite then extract (blend c sigma)
  else ⟨(blend c sigma).r, (blend c sigma).g, (blend c sigma).b, 0#8⟩

/-! ### Brightness, correction and the two transforms -/

/-- `BRIGHT`: all four channels (R181). -/
def brighten (p : Rgbw) (beta : Byte) : Rgbw :=
  ⟨scale p.r beta, scale p.g beta, scale p.b beta, scale p.w beta⟩

/-- `CORRECT`: red, green and blue, never white (R182). -/
def correct (p : Rgbw) (corr : Rgb) : Rgbw :=
  ⟨scale p.r corr.r, scale p.g corr.g, scale p.b corr.b, p.w⟩

/-- `RGBX` (R184), in the stage order of R183. -/
def rgbx (hasWhite : Bool) (corr : Rgb) (sat bright : Byte) (c : Rgb) : Rgbw :=
  correct (brighten (desat hasWhite c sat) bright) corr

/-- `sat_e = scale(s, sat)` (R177). -/
def satEff (s sat : Byte) : Byte := scale s sat

/-- `bright_e = scale(vsq(v), bright)` (R177). -/
def brightEff (v bright : Byte) : Byte := scale (vsq v) bright

/-- `HSVX` (R185), in the stage order of R183. -/
def hsvx (t : RainbowTable) (hasWhite : Bool) (corr : Rgb) (sat bright : Byte) (h s v : Byte) : Rgbw :=
  correct (brighten (desat hasWhite (rainbow t h) (satEff s sat)) (brightEff v bright)) corr

/-- Calibration's color: each correction channel scaled by brightness, white 0 (R143). -/
def calColor (corr : Rgb) (bright : Byte) : Rgbw :=
  ⟨scale corr.r bright, scale corr.g bright, scale corr.b bright, 0#8⟩

end Sys2Proof.Machine
end

