-- ==== Sys2Proof/Machine/Memory.lean ====
section
/-!
DEFINITION. Reading and writing sparse storage, the same for CB (`20_memory.md` R52) and FB (R51).
-/
namespace Sys2Proof

/-- The value at index `a`: the one listed, else 0, which both spaces hold at reset (R33, R34). -/
def Memory.read {w : Nat} : Memory w → Nat → BitVec w
  | [], _ => 0#w
  | (k, x) :: m, a => if a = k then x else Memory.read m a

/-- Puts `v` at index `a`, which lies below every listed index of `m`. -/
def Memory.push {w : Nat} (a : Nat) (v : BitVec w) (m : Memory w) : Memory w :=
  if v = 0#w then m else (a, v) :: m

/-- Writes `v` at index `a`, keeping the canonical form: writing 0 removes the entry. -/
def Memory.write {w : Nat} : Memory w → Nat → BitVec w → Memory w
  | [], a, v => Memory.push a v []
  | (k, x) :: m, a, v =>
    if a < k then Memory.push a v ((k, x) :: m)
    else if a = k then Memory.push a v m
    else (k, x) :: Memory.write m a v

/-- Writes consecutive cells from index `a` up, in ascending order (R57, R120, R145, R220, R221). -/
def Memory.writeList {w : Nat} : Memory w → Nat → List (BitVec w) → Memory w
  | m, _, [] => m
  | m, a, v :: vs => Memory.writeList (Memory.write m a v) (a + 1) vs

/-- The canonical form: indices strictly rising, no listed cell holds 0. -/
abbrev Memory.wf {w : Nat} (m : Memory w) : Prop :=
  m.Pairwise (fun c d => c.1 < d.1) ∧ ∀ c ∈ m, c.2 ≠ 0#w

/-- Every listed index is below `n`: nothing was written outside the space (R61). -/
abbrev Memory.below {w : Nat} (m : Memory w) (n : Nat) : Prop := ∀ c ∈ m, c.1 < n

end Sys2Proof
end

