-- ==== Sys2Proof/Machine/State.lean ====
section
/-!
DEFINITION. The state of the block (`10_state.md` R20 to R39) and, beside it, the host's side of the
four ports (R31, `60_exceptions.md` R252): what the producers still have to hand over, which agent
moves next, and the words already handed to the transmitter.
-/
namespace Sys2Proof.Machine

/-- The packet framer's states (R27). `collecting` is also the spec's alias `GotLenLo`. -/
inductive FState where
  | idle
  | gotStart
  | gotType
  | gotLenHi
  | collecting
deriving DecidableEq, Repr

/-- The flush sequencer's phases (R32). -/
inductive Phase where
  | ready
  | flushing
deriving DecidableEq, Repr

/-- One turn of the schedule: which agent offers a transaction at the coming step (R5, R64, R252).
The list of turns is free, so every order and every delay the spec leaves open is some list. -/
inductive Turn where
  /-- The stream producer offers the next byte of `streamIn` on STREAM_IN. -/
  | stream
  /-- The datagram producer offers the next datagram of `dgramIn` on DGRAM_IN. -/
  | dgram
  /-- The strip transmitter is willing to accept a word on TX_OUT. -/
  | accept
  /-- RST is asserted with the vector `cfg` on CFG. -/
  | reset (cfg : BitVec 32)
deriving DecidableEq, Repr

/-- The faults. The block itself has none (R240); both constructors guard an access outside a
storage space, which R61 excludes, and only a state that no run reaches meets one. -/
inductive Fault where
  /-- A stream byte would be stored at an offset of CAP or more (R117). Raised by `takeStreamByte`. Safe. -/
  | cbOffsetOutOfRange
  /-- A flush step would send a word at an index of N or more (R32). Raised by `flushStep`. Safe. -/
  | fbIndexOutOfRange
deriving DecidableEq, Repr

/-- The refusals. -/
inductive Refusal where
  /-- An instruction without a meaning, by its mnemonic. Raised by `exec` alone; no arm does. Safe. -/
  | notModelled (mnemonic : String)
  /-- A configuration with N = 0 or lanes that are not pairwise distinct (R6, R24). Raised by
  `applyReset` and by every transaction of a state that holds such a configuration. Safe. -/
  | illegalConfig
deriving DecidableEq, Repr

/-- The machine's state. -/
structure State where
  /-- The configuration latched at reset (R21 to R24). -/
  cfg : Config
  /-- The design-time parameter `RAINBOW_ENDPOINTS`, entries 2 to 7 (R174). -/
  endpoints : RainbowTable
  /-- The framer state (R27). -/
  fstate : FState
  /-- The framer's byte index, in [0, CAP] (R28). -/
  idx : Nat
  /-- The declared length of the current stream command (R29). -/
  dlen : BitVec 16
  /-- The command type of the current stream command; nothing reads it (R30). -/
  ctype : BitVec 2
  /-- The flush phase (R32). -/
  phase : Phase
  /-- The index of the word on offer, in [0, N] (R32). -/
  fptr : Nat
  /-- The command buffer CB, CAP bytes (R33). -/
  buf : Memory 8
  /-- The frame buffer FB, N words (R34). -/
  fb : Memory 32
  /-- Host side: the bytes the stream producer has still to hand over, next first (R64). -/
  streamIn : List Byte
  /-- Host side: the datagrams the datagram producer has still to hand over, next first (R64, R122). -/
  dgramIn : List (List Byte)
  /-- Host side: the schedule (R64, R244, R252). -/
  turns : List Turn
  /-- Host side: the words the transmitter has accepted, oldest first (R31, R225). -/
  txOut : List Word
deriving DecidableEq, Repr

/-- The machine right after reset (R270, R271): the block's registers and buffers at the spec's
values; the configuration, the table's open entries and the host's side as assumption log 2, 3 and 4
say. -/
def State.reset : State where
  cfg := Config.example
  endpoints := RainbowTable.default
  fstate := .idle
  idx := 0
  dlen := 0#16
  ctype := 0#2
  phase := .ready
  fptr := 0
  buf := []
  fb := []
  streamIn := []
  dgramIn := []
  turns := []
  txOut := []

end Sys2Proof.Machine
end

