-- ==== Sys2Proof/Machine/Flags.lean ====
section
/-!
DEFINITION. The block has no flags, no condition codes and no status register (`10_state.md` R35).
The only status that leaves it is the readiness of its ports, a pure function of state (R38).
-/
namespace Sys2Proof.Machine

/-- `stream_ready = (phase == Ready)` (R38). -/
def State.streamReady (s : State) : Bool := decide (s.phase = .ready)

/-- `dgram_ready = (phase == Ready) and (fstate == Idle)` (R38). -/
def State.dgramReady (s : State) : Bool := decide (s.phase = .ready ∧ s.fstate = .idle)

/-- `tx_valid = (phase == Flushing)` (R38). -/
def State.txValid (s : State) : Bool := decide (s.phase = .flushing)

/-- The word on offer while `tx_valid`: `fb[fptr]` (R38, R224). -/
def State.txWord (s : State) : Word := s.fb.read s.fptr

/-- The state numbers of R27's table; no port shows them. -/
def FState.code : FState → Nat
  | .idle => 0
  | .gotStart => 1
  | .gotType => 2
  | .gotLenHi => 3
  | .collecting => 4

end Sys2Proof.Machine
end

