-- ==== Sys2Proof/Machine/Pack.lean ====
section
/-!
DEFINITION. The configuration vector, the lanes and the word packer (`10_state.md` R23, R24, R36;
`42_color_transform.md` R186).
-/
namespace Sys2Proof.Machine

/-- The fields of the vector CFG; bits 31 to 25 are ignored (R24). -/
def sampleConfig (v : BitVec 32) : Config where
  n := v.extractLsb' 0 16
  hasWhite := v.getLsbD 16
  laneB := v.extractLsb' 17 2
  laneG := v.extractLsb' 19 2
  laneR := v.extractLsb' 21 2
  laneW := v.extractLsb' 23 2

/-- A legal configuration: N at least 1, lanes pairwise distinct (R6, R24). -/
def legalConfig (c : Config) : Bool :=
  decide (c.n ≠ 0#16 ∧ c.laneR ≠ c.laneG ∧ c.laneR ≠ c.laneB ∧ c.laneR ≠ c.laneW ∧
    c.laneG ≠ c.laneB ∧ c.laneG ≠ c.laneW ∧ c.laneB ≠ c.laneW)

/-- The pixel count as a number (R22). -/
def pixelCount (c : Config) : Nat := c.n.toNat

/-- `CAP = 3*N + 64` (R7). -/
def capacity (c : Config) : Nat := 3 * pixelCount c + 64

/-- A channel value in byte lane `k`: bits `[8k+7 : 8k]` (R9, R23). -/
def inLane (k : BitVec 2) (x : Byte) : Word := x.setWidth 32 <<< (8 * k.toNat)

/-- Byte lane `k` of a word (R9). -/
def laneByte (k : BitVec 2) (v : Word) : Byte := v.extractLsb' (8 * k.toNat) 8

/-- `pack(r, g, b, w)` (R186). -/
def pack (c : Config) (p : Rgbw) : Word :=
  inLane c.laneR p.r ||| inLane c.laneG p.g ||| inLane c.laneB p.b ||| inLane c.laneW p.w

/-- The lane of a channel in a named wire order: the first of `n` letters takes lane `n - 1`, the last
lane 0; a three-letter order leaves white in lane 3 (R23, D3). -/
def namedLane (order : List Channel) (c : Channel) : BitVec 2 :=
  if c ∈ order then BitVec.ofNat 2 (order.length - 1 - order.idxOf c) else 3#2

/-- A configuration whose lanes follow a named wire order, such as GRB or GRBW (D3). -/
def withWireOrder (c : Config) (order : List Channel) : Config :=
  { c with
    laneR := namedLane order .red
    laneG := namedLane order .green
    laneB := namedLane order .blue
    laneW := namedLane order .white }

end Sys2Proof.Machine
end

