-- ==== Sys2Proof/Machine/Ops.lean ====
section
/-!
DEFINITION. The named operations over the two storage spaces and the registers
(`20_memory.md` R50 to R62, `43_frame_buffer_flush.md` R220 to R224).

TAKING AN EXCEPTION. The block has none, and no return from one: `60_exceptions.md` R240, R245 and
R246. The one recovery action it has is the framer's return to Idle (R245); it is `State.toIdle`.
-/
namespace Sys2Proof.Machine

/-- `N` (R22). -/
def State.count (s : State) : Nat := pixelCount s.cfg

/-- `CAP` (R7). -/
def State.cap (s : State) : Nat := capacity s.cfg

/-! ### The command buffer -/

/-- `buf[k]`: the last value written to offset k (R55). -/
def State.cb (s : State) (k : Nat) : Byte := s.buf.read k

/-- The whole command buffer, offsets 0 to CAP-1: what the dispatcher reads, stale bytes included
(R55, R67). -/
def State.cbBytes (s : State) : List Byte := (List.range s.cap).map s.cb

/-- `buf[k] <- v` (R57). -/
def State.setCb (s : State) (k : Nat) (v : Byte) : State := { s with buf := s.buf.write k v }

/-- `buf[k] <- d[k]` for k from 0 to `min(L, CAP) - 1` (R120, R121). -/
def State.copyIn (s : State) (d : List Byte) : State :=
  { s with buf := s.buf.writeList 0 (d.take s.cap) }

/-! ### The framer registers -/

/-- `idx <- n` (R28). -/
def State.setIdx (s : State) (n : Nat) : State := { s with idx := n }

/-- `dlen <- v` (R29). -/
def State.setDlen (s : State) (v : BitVec 16) : State := { s with dlen := v }

/-- `ctype <- v` (R30). -/
def State.setCtype (s : State) (v : BitVec 2) : State := { s with ctype := v }

/-- `fstate <- f` (R27). -/
def State.setFstate (s : State) (f : FState) : State := { s with fstate := f }

/-- The framer's return to Idle, the block's only recovery action (R112, R116, R245). -/
def State.toIdle (s : State) : State := s.setFstate .idle

/-! ### The frame buffer and the flush sequencer -/

/-- `fb[i]` (R51). -/
def State.fbWord (s : State) (i : Nat) : Word := s.fb.read i

/-- WriteRange from slot `lo`: the given words into consecutive slots, ascending (R221). -/
def State.writeRange (s : State) (lo : Nat) (words : List Word) : State :=
  { s with fb := s.fb.writeList lo words }

/-- Fill: every slot gets one word (R220). -/
def State.fill (s : State) (px : Word) : State := s.writeRange 0 (List.replicate s.count px)

/-- StartFlush: `phase <- Flushing; fptr <- 0` (R223). -/
def State.startFlush (s : State) : State := { s with phase := .flushing, fptr := 0 }

/-- `Tx(w)`: the transmitter has taken the word (R10, R226). -/
def State.tx (s : State) (v : Word) : State := { s with txOut := s.txOut ++ [v] }

/-- What a flush step does to the sequencer: `fptr + 1`, and at N back to Ready with `fptr` 0 (R224). -/
def State.advanceFlush (s : State) : State :=
  if s.fptr + 1 = s.count then { s with phase := .ready, fptr := 0 }
  else { s with fptr := s.fptr + 1 }

/-! ### Reset -/

/-- The block's state after an assertion of RST that samples `c` (R270). The table is fixed at design
time; the host's side is not the block's state, and words already sent stay sent (R272). -/
def State.resetWith (s : State) (c : Config) : State :=
  { s with
    cfg := c
    fstate := .idle
    idx := 0
    dlen := 0#16
    ctype := 0#2
    phase := .ready
    fptr := 0
    buf := []
    fb := [] }

end Sys2Proof.Machine
end

