-- ==== Sys2Proof/Machine/Calibration.lean ====
section
/-! DEFINITION. Calibration (`41_command_dispatch.md` R142, R143). -/
namespace Sys2Proof.Machine

/-- CAL: fill the frame buffer with the brightness-scaled correction color, then flush (R143). -/
def execCal (corr : Rgb) (bright : Byte) (s : State) : Host.Outcome State Fault Refusal :=
  .next (s.fill (pack s.cfg (calColor corr bright))).startFlush

end Sys2Proof.Machine
end

