-- ==== Sys2Proof/Machine/Operands.lean ====
section
/-!
DEFINITION. The operand forms of the render commands: the clamped LED range and the pixel triples
(`41_command_dispatch.md` R144, R145). CAL's operands are its fields (R142); WRITE has none (R150).
-/
namespace Sys2Proof.Machine

/-- `min(x, N)`: `start` and `end` are unsigned, so this is the clamp to [0, N] (R145). -/
def State.clamp (s : State) (x : BitVec 16) : Nat := min x.toNat s.count

/-- The offset of pixel k's triple in the command buffer: `13 + 3k` (R8, R60, R145). -/
def tripleOffset (k : Nat) : Nat := 13 + 3 * k

/-- The triple the command buffer holds for pixel k (R144, R145). -/
def State.cbTriple (s : State) (k : Nat) : Triple :=
  ⟨s.cb (tripleOffset k), s.cb (tripleOffset k + 1), s.cb (tripleOffset k + 2)⟩

/-- Pixel k of a render command: the triple the command carries, or, for a triple the command does
not carry, what the buffer holds in its place (R55, R152). A command decoded from the whole buffer
carries every triple its range reads, so there the second case does not arise (assumption log 10). -/
def State.pixel (s : State) (pixels : List Triple) (k : Nat) : Triple :=
  (pixels[k]?).getD (s.cbTriple k)

/-- The packed words of the clamped range [lo, hi), word k from pixel k (R145). -/
def State.rangeWords (s : State) (lo hi : Nat) (pixels : List Triple) (color : Triple → Rgbw) :
    List Word :=
  (List.range (hi - lo)).map fun k => pack s.cfg (color (s.pixel pixels k))

/-- The loop both render commands share (R145): clamp, then write the range [s, e). An empty range
writes nothing. -/
def State.render (s : State) (start stop : BitVec 16) (pixels : List Triple) (color : Triple → Rgbw) :
    State :=
  s.writeRange (s.clamp start) (s.rangeWords (s.clamp start) (s.clamp stop) pixels color)

end Sys2Proof.Machine
end

