-- ==== Sys2Proof/Machine/Render.lean ====
section
/-! DEFINITION. RenderRGB and RenderHSV (`41_command_dispatch.md` R144 to R149). -/
namespace Sys2Proof.Machine

/-- A triple read as (r, g, b) (R83, R146). -/
def rgbColor (hasWhite : Bool) (corr : Rgb) (sat bright : Byte) (p : Triple) : Rgbw :=
  rgbx hasWhite corr sat bright ⟨p.p0, p.p1, p.p2⟩

/-- A triple read as (h, s, v) (R148, R149). -/
def hsvColor (t : RainbowTable) (hasWhite : Bool) (corr : Rgb) (sat bright : Byte) (p : Triple) : Rgbw :=
  hsvx t hasWhite corr sat bright p.p0 p.p1 p.p2

/-- RGB: write the clamped range through the RGB transform, no flush (R146). -/
def execRgb (corr : Rgb) (sat bright : Byte) (start stop : BitVec 16) (pixels : List Triple)
    (s : State) : Host.Outcome State Fault Refusal :=
  .next (s.render start stop pixels (rgbColor s.cfg.hasWhite corr sat bright))

/-- HSV: write the clamped range through the HSV transform, no flush (R149). -/
def execHsv (corr : Rgb) (sat bright : Byte) (start stop : BitVec 16) (pixels : List Triple)
    (s : State) : Host.Outcome State Fault Refusal :=
  .next (s.render start stop pixels (hsvColor s.endpoints s.cfg.hasWhite corr sat bright))

end Sys2Proof.Machine
end

