-- ==== Sys2Proof/Machine/WriteLeds.lean ====
section
/-! DEFINITION. WriteLEDs (`41_command_dispatch.md` R150). -/
namespace Sys2Proof.Machine

/-- WRITE: start a flush, change nothing else (R150). -/
def execWrite (s : State) : Host.Outcome State Fault Refusal := .next s.startFlush

end Sys2Proof.Machine
end

