-- ==== Sys2Proof/Machine/Dispatch.lean ====
section
/-! DEFINITION. One arm per command (`41_command_dispatch.md` R140). The declared length is the first
field of every constructor and takes no part (R86, R152). -/
namespace Sys2Proof.Machine

def exec (i : Instr) (s : State) : Host.Outcome State Fault Refusal :=
  match i with
  | .cal _ corr bright => Sys2Proof.Machine.execCal corr bright s
  | .rgb _ corr sat bright start stop pixels => Sys2Proof.Machine.execRgb corr sat bright start stop pixels s
  | .hsv _ corr sat bright start stop pixels => Sys2Proof.Machine.execHsv corr sat bright start stop pixels s
  | .write _ => Sys2Proof.Machine.execWrite s

end Sys2Proof.Machine
end

