-- ==== Sys2Proof/Machine/Framer.lean ====
section
/-!
DEFINITION. The packet framer: what one stream byte does to the framer and the command buffer, state
by state (`40_packet_framer.md` R110 to R116), before any dispatch it triggers.
-/
namespace Sys2Proof.Machine

/-- The test of CheckComplete: `idx == dlen or idx == CAP` (R116). -/
def State.complete (s : State) : Bool := decide (s.idx = s.dlen.toNat ∨ s.idx = s.cap)

/-- CheckComplete: a complete command sends the framer to Idle and is to be dispatched, which the flag
says (R116). -/
def State.checkComplete (s : State) : State × Bool := if s.complete then (s.toIdle, true) else (s, false)

/-- Idle: the start marker opens a command, any other byte is discarded (R110, R111). -/
def State.byteIdle (s : State) (b : Byte) : State :=
  if b = 0x00#8 then (((s.setCb 0 b).setIdx 1).setDlen 0#16).setFstate .gotStart else s

/-- GotStart: the command type, or a framing error that returns to Idle (R112). -/
def State.byteType (s : State) (b : Byte) : State :=
  if b.toNat < 4 then (((s.setCb 1 b).setIdx 2).setCtype (b.setWidth 2)).setFstate .gotType
  else s.toIdle

/-- GotType: the high byte of the declared length (R113). -/
def State.byteLenHi (s : State) (b : Byte) : State :=
  (((s.setCb 2 b).setIdx 3).setDlen (b.setWidth 16 <<< 8)).setFstate .gotLenHi

/-- GotLenHi: the low byte of the declared length, before CheckComplete (R114). -/
def State.byteLenLo (s : State) (b : Byte) : State :=
  (((s.setCb 3 b).setIdx 4).setDlen (s.dlen ||| b.setWidth 16)).setFstate .collecting

/-- Collecting: a payload byte, before CheckComplete (R115). -/
def State.byteCollect (s : State) (b : Byte) : State := (s.setCb s.idx b).setIdx (s.idx + 1)

/-- StreamByte up to the dispatch: the state, and whether a complete command is to be dispatched. -/
def State.frameByte (s : State) (b : Byte) : State × Bool :=
  match s.fstate with
  | .idle => (s.byteIdle b, false)
  | .gotStart => (s.byteType b, false)
  | .gotType => (s.byteLenHi b, false)
  | .gotLenHi => (s.byteLenLo b).checkComplete
  | .collecting => (s.byteCollect b).checkComplete

end Sys2Proof.Machine
end

