-- ==== Sys2Proof/Machine/Sequencer.lean ====
section
/-!
DEFINITION. The single sequencer: Dispatch, the transactions on the four ports, and one turn of the
schedule (`41_command_dispatch.md` R140, R141; `40_packet_framer.md` R110 to R122;
`43_frame_buffer_flush.md` R224; `70_reset_and_hazards.md` R270). A transaction and the dispatch it
triggers are one step (R12, R58).
-/
namespace Sys2Proof.Machine

/-- Dispatch(): the command the buffer holds is run; a bad marker or type is ignored (R140, R141). -/
def dispatch (s : State) : Host.Outcome State Fault Refusal :=
  match decode s.cbBytes with
  | .ok i => exec i s
  | .error _ => .next s

/-- StreamByte (R110 to R116): frame the byte and dispatch a command that it completes. A byte that
would be stored outside the buffer faults; R117 excludes it. -/
def takeStreamByte (b : Byte) (s : State) : Host.Outcome State Fault Refusal :=
  if s.fstate = .collecting ∧ s.cap ≤ s.idx then .fault .cbOffsetOutOfRange
  else if (s.frameByte b).2 then dispatch (s.frameByte b).1
  else .next (s.frameByte b).1

/-- Datagram (R120, R121): copy at most CAP bytes, then dispatch; the framer is left alone. -/
def takeDatagram (d : List Byte) (s : State) : Host.Outcome State Fault Refusal :=
  dispatch (s.copyIn d)

/-- FlushStep (R224): hand over `fb[fptr]` and move on. An index outside the frame buffer faults; R32
excludes it. -/
def flushStep (s : State) : Host.Outcome State Fault Refusal :=
  if s.fptr < s.count then .next (s.tx (s.fbWord s.fptr)).advanceFlush
  else .fault .fbIndexOutOfRange

/-- RST with the vector `v` on CFG (R270); an illegal configuration is refused (R6, R24). -/
def applyReset (v : BitVec 32) (s : State) : Host.Outcome State Fault Refusal :=
  if legalConfig (sampleConfig v) then .next (s.resetWith (sampleConfig v))
  else .refused .illegalConfig

/-- STREAM_IN: the next byte is taken when `stream_ready` and one is offered; otherwise it stays with
the producer (R38, R281). -/
def streamTurn (s : State) : Host.Outcome State Fault Refusal :=
  match s.streamIn with
  | [] => .next s
  | b :: bs => if s.streamReady then takeStreamByte b { s with streamIn := bs } else .next s

/-- DGRAM_IN: the next datagram is taken whole when `dgram_ready` and one is offered; otherwise it
stays with the producer (R38, R122). -/
def dgramTurn (s : State) : Host.Outcome State Fault Refusal :=
  match s.dgramIn with
  | [] => .next s
  | d :: ds => if s.dgramReady then takeDatagram d { s with dgramIn := ds } else .next s

/-- TX_OUT: the transmitter accepts the word on offer, if there is one (R224, R226). -/
def acceptTurn (s : State) : Host.Outcome State Fault Refusal :=
  if s.txValid then flushStep s else .next s

/-- One turn. No transaction has a meaning under an illegal configuration (R6); a reset does. -/
def takeTurn (t : Turn) (s : State) : Host.Outcome State Fault Refusal :=
  match t with
  | .reset v => applyReset v s
  | .stream => if legalConfig s.cfg then streamTurn s else .refused .illegalConfig
  | .dgram => if legalConfig s.cfg then dgramTurn s else .refused .illegalConfig
  | .accept => if legalConfig s.cfg then acceptTurn s else .refused .illegalConfig

/-- The next step: the first turn of the schedule is taken; with no turn left nobody offers anything
and the block waits, all state held (R253, R254). -/
def nextStep (s : State) : Host.Outcome State Fault Refusal :=
  match s.turns with
  | [] => .next s
  | t :: ts => takeTurn t { s with turns := ts }

/-- The datagram that carries an opcode-table instruction, every later byte of the buffer 0. -/
def tableDatagram (s : State) (nbits w : Nat) : List Byte :=
  (tableBytes nbits w ++ List.replicate s.cap 0x00#8).take s.cap

/-- `s` with that datagram offered, the block ready for it and its turn next (assumption log 12). -/
def offerTableWord (s : State) (nbits w : Nat) : State :=
  { s with
    fstate := .idle
    phase := .ready
    dgramIn := tableDatagram s nbits w :: s.dgramIn
    turns := .dgram :: s.turns }

end Sys2Proof.Machine
end

