-- ==== Sys2Proof/Machine/Step.lean ====
section
/-! DEFINITION. One step of the machine: one completed transaction, or a wait (`00_scope.md` R12). -/
namespace Sys2Proof.Machine

/-- One step (R5, R12). -/
def step (s : State) : Host.Outcome State Fault Refusal := nextStep s

/-- `s` with an opcode-table instruction placed where the next step takes it: a datagram on DGRAM_IN
whose turn is next (R31, R120; assumption log 12). -/
def State.withFetchWord (s : State) (nbits w : Nat) : State := offerTableWord s nbits w

end Sys2Proof.Machine
end

