-- ==== Sys2Proof/Safety.lean ====
section
/-!
DEFINITION. What counts as a good state and a safe run, in the terms the statements use
(`40_packet_framer.md` R117, `20_memory.md` R61, `60_exceptions.md` R240, R254).
-/
namespace Sys2Proof.Machine

/-- What the framer registers and the header bytes say in each framer state: `idx` is the number of
bytes of the current command stored so far (R117); the marker and the type are already in the buffer
(R110, R112); `dlen` is as much of the declared length as has arrived (R113, R114); and a command
that is still being collected is not complete (R116). -/
def State.framed (s : State) : Prop :=
  match s.fstate with
  | .idle => True
  | .gotStart => s.idx = 1 ∧ s.dlen = 0#16 ∧ s.cb 0 = 0#8
  | .gotType => s.idx = 2 ∧ s.dlen = 0#16 ∧ s.cb 0 = 0#8 ∧ s.cb 1 = s.ctype.setWidth 8
  | .gotLenHi => s.idx = 3 ∧ s.dlen = u16be (s.cb 2) 0#8 ∧ s.cb 0 = 0#8 ∧ s.cb 1 = s.ctype.setWidth 8
  | .collecting =>
    4 ≤ s.idx ∧ s.idx < s.cap ∧ s.dlen = u16be (s.cb 2) (s.cb 3) ∧ s.cb 0 = 0#8 ∧
      s.cb 1 = s.ctype.setWidth 8 ∧ (s.dlen.toNat < 4 ∨ s.idx < s.dlen.toNat)

/-- The invariant of the block. -/
structure State.Inv (s : State) : Prop where
  /-- The latched configuration is legal (R6). -/
  legal : legalConfig s.cfg = true
  /-- The command buffer is canonical and lists nothing at CAP or beyond (R52, R61). -/
  buf : s.buf.wf ∧ s.buf.below s.cap
  /-- The frame buffer is canonical and lists nothing at N or beyond (R51, R61). -/
  fb : s.fb.wf ∧ s.fb.below s.count
  /-- `0 ≤ idx ≤ CAP` (R117). -/
  idx : s.idx ≤ s.cap
  /-- The framer registers agree with the buffer. -/
  framed : s.framed
  /-- Between flushes `fptr` is 0 (R224). -/
  ready : s.phase = .ready → s.fptr = 0
  /-- During a flush a word is on offer and no stream command is part-framed (R38, R224). -/
  flushing : s.phase = .flushing → s.fptr < s.count ∧ s.fstate = .idle

/-- On an RGB strip the white lane of every frame-buffer word is 0 (R36). -/
def State.whiteDark (s : State) : Prop :=
  s.cfg.hasWhite = false → ∀ i, laneByte s.cfg.laneW (s.fbWord i) = 0#8

/-- The schedule's next turn is an assertion of RST. -/
def State.resetNext (s : State) : Bool :=
  match s.turns with
  | .reset _ :: _ => true
  | _ => false

/-- The block waits at the coming step (R254): the agent whose turn it is offers nothing that the
block can take, or no turn is left. Waiting is not a fault. -/
def State.waiting (s : State) : Bool :=
  match s.turns with
  | [] => true
  | .stream :: _ => s.streamIn.isEmpty || !s.streamReady
  | .dgram :: _ => s.dgramIn.isEmpty || !s.dgramReady
  | .accept :: _ => !s.txValid
  | .reset _ :: _ => false

/-- A quiescent end of a run: ready, and every offered input consumed (R254). -/
def State.quiescent (s : State) : Bool :=
  decide (s.phase = .ready) && s.streamIn.isEmpty && s.dgramIn.isEmpty

/-- The first hang of R254: a flush is running and the schedule holds producer turns alone, so the
transmitter never accepts again (R226). -/
def State.hungFlush (s : State) : Bool :=
  decide (s.phase = .flushing) && s.turns.all fun t => decide (t = .stream ∨ t = .dgram)

/-- The second hang of R254: a datagram waits behind a part-framed stream command, and neither a
further stream byte nor a reset is to come (R283). -/
def State.hungDatagram (s : State) : Bool :=
  decide (s.phase = .ready ∧ s.fstate ≠ .idle ∧ s.dgramIn ≠ []) &&
    s.turns.all fun t => decide (t = .dgram ∨ t = .accept ∨ (t = .stream ∧ s.streamIn = []))

/-- A hang (R254): an infinite wait of one of the two kinds (assumption log 20). -/
def State.hung (s : State) : Bool := s.hungFlush || s.hungDatagram

/-- `k` steps in a row, ending early at a fault or a refusal. -/
def runSteps : Nat → State → Host.Outcome State Fault Refusal
  | 0, s => .next s
  | k + 1, s =>
    match step s with
    | .next t => runSteps k t
    | .fault r => .fault r
    | .refused r => .refused r

/-- The error classes of R241: names for kinds of input, not architectural state. -/
inductive ErrorClass where
  | hunt
  | typeStream
  | guard
  | shortLen
  | markDgram
  | typeDgram
  | dgramTrunc
  | rangeClamp
  | rangeEmpty
deriving DecidableEq, Repr

/-- The bytes the format of the buffer's command needs: 8, `13 + 3*(end - start)` or 4 (R81, R83, R84,
R284). Of a render the range counts as it stands in the buffer, before clamping (assumption log 19). -/
def State.formatNeeds (s : State) : Nat :=
  match (s.cb 1).toNat with
  | 0 => 8
  | 1 | 2 => 13 + 3 * ((u16be (s.cb 11) (s.cb 12)).toNat - (u16be (s.cb 9) (s.cb 10)).toNat)
  | _ => 4

/-- The classes of R241 that a stream byte belongs to, before any dispatch. DESIGN CHOICE (assumption
log 21): a command that the overflow guard ends before its DLEN is in E_GUARD alone, even where DLEN is
also smaller than the format needs; R241 leaves open whether it counts as E_SHORTLEN too. -/
def State.streamErrors (s : State) (b : Byte) : List ErrorClass :=
  let f := s.frameByte b
  (if s.fstate = .idle ∧ b ≠ 0#8 then [.hunt] else []) ++
  (if s.fstate = .gotStart ∧ 4 ≤ b.toNat then [.typeStream] else []) ++
  (if f.2 = true ∧ f.1.idx = f.1.cap ∧ f.1.idx ≠ f.1.dlen.toNat then [.guard] else []) ++
  (if f.2 = true ∧ f.1.idx = f.1.dlen.toNat ∧ f.1.idx < f.1.formatNeeds then [.shortLen] else [])

/-- The classes of R241 that a dispatch of the buffer belongs to. -/
def State.dispatchErrors (s : State) : List ErrorClass :=
  if s.cb 0 ≠ 0#8 then [.markDgram]
  else if 4 ≤ (s.cb 1).toNat then [.typeDgram]
  else if s.cb 1 = 1#8 ∨ s.cb 1 = 2#8 then
    let start := u16be (s.cb 9) (s.cb 10)
    let stop := u16be (s.cb 11) (s.cb 12)
    (if s.count < start.toNat ∨ s.count < stop.toNat then [.rangeClamp] else []) ++
    (if s.clamp stop ≤ s.clamp start then [.rangeEmpty] else [])
  else []

/-- The classes of R241 that a datagram belongs to. -/
def State.datagramErrors (s : State) (d : List Byte) : List ErrorClass :=
  (if s.cap < d.length then [.dgramTrunc] else []) ++ (s.copyIn d).dispatchErrors

end Sys2Proof.Machine
end

