-- ==== Sys2Proof/Certificates/Slice0/Obligations.lean ====
section
/-!
DEFINITION. The statements for the provers. Each docstring names the rules it formalises. A premise
`Memory.wf` is the canonical form of the memory, which every run keeps (`StepKeepsInv`).
-/
open Sys2Proof Sys2Proof.Machine

/-! ### Encoding -/

/-- R91: the worked encodings, in both directions. The words are the spec's inference from its
packet notation (R91 is marked derived, R90 is D24). -/
def Obligations.WorkedEncodings : Prop :=
  (encode (.cal 8#16 ⟨255#8, 128#8, 64#8⟩ 200#8) = [0x00, 0x00, 0x00, 0x08, 0xFF, 0x80, 0x40, 0xC8] ∧
    decode [0x00, 0x00, 0x00, 0x08, 0xFF, 0x80, 0x40, 0xC8] = .ok (.cal 8#16 ⟨255#8, 128#8, 64#8⟩ 200#8)) ∧
  (encode (.write 4#16) = [0x00, 0x03, 0x00, 0x04] ∧
    decode [0x00, 0x03, 0x00, 0x04] = .ok (.write 4#16)) ∧
  (encode (.rgb 19#16 ⟨255#8, 255#8, 255#8⟩ 255#8 255#8 0#16 2#16 [⟨255#8, 0#8, 0#8⟩, ⟨0#8, 0#8, 255#8⟩]) =
      [0x00, 0x01, 0x00, 0x13, 0xFF, 0xFF, 0xFF, 0xFF, 0xFF, 0x00, 0x00, 0x00, 0x02, 0xFF, 0x00, 0x00, 0x00, 0x00, 0xFF] ∧
    decode [0x00, 0x01, 0x00, 0x13, 0xFF, 0xFF, 0xFF, 0xFF, 0xFF, 0x00, 0x00, 0x00, 0x02, 0xFF, 0x00, 0x00, 0x00, 0x00, 0xFF] =
      .ok (.rgb 19#16 ⟨255#8, 255#8, 255#8⟩ 255#8 255#8 0#16 2#16 [⟨255#8, 0#8, 0#8⟩, ⟨0#8, 0#8, 255#8⟩])) ∧
  (encode (.hsv 16#16 ⟨255#8, 255#8, 255#8⟩ 255#8 255#8 10#16 11#16 [⟨32#8, 255#8, 255#8⟩]) =
      [0x00, 0x02, 0x00, 0x10, 0xFF, 0xFF, 0xFF, 0xFF, 0xFF, 0x00, 0x0A, 0x00, 0x0B, 0x20, 0xFF, 0xFF] ∧
    decode [0x00, 0x02, 0x00, 0x10, 0xFF, 0xFF, 0xFF, 0xFF, 0xFF, 0x00, 0x0A, 0x00, 0x0B, 0x20, 0xFF, 0xFF] =
      .ok (.hsv 16#16 ⟨255#8, 255#8, 255#8⟩ 255#8 255#8 10#16 11#16 [⟨32#8, 255#8, 255#8⟩]))

/-- R80, R81, R83, R84, R85: decoding an encoded well-formed command gives it back. Which payloads
are well-formed is the model's reading (log 10). -/
def Obligations.DecodeEncodeRoundTrip : Prop :=
  ∀ i : Instr, i.wf = true → decode (encode i) = .ok i

/-- R88: bytes after a command that carries all its triples are no part of it. R88 is marked as the
spec's inference. -/
def Obligations.TrailingBytesAreIgnored : Prop :=
  ∀ (i : Instr) (rest : List Byte), i.complete = true → decode (encode i ++ rest) = .ok i

/-- R81, R83, R84: the nominal lengths, 8, 13 + 3n and 4 bytes. The first two lengths are marked as
the spec's inference from its offsets. -/
def Obligations.NominalLengths : Prop :=
  ∀ (len : BitVec 16) (corr : Rgb) (sat bright : Byte) (start stop : BitVec 16) (px : List Triple),
    (encode (.cal len corr bright)).length = 8 ∧
    (encode (.rgb len corr sat bright start stop px)).length = 13 + 3 * px.length ∧
    (encode (.hsv len corr sat bright start stop px)).length = 13 + 3 * px.length ∧
    (encode (.write len)).length = 4

/-- R86: the header word masked with 0xFFFF0000 selects the command; DLEN takes no part. The last
clause is R80's legal values of MARK and TYPE. -/
def Obligations.HeaderWordSelectsCommand : Prop :=
  ∀ (b0 b1 b2 b3 : Byte) (rest : List Byte), 9 ≤ rest.length →
    (headerWord b0 b1 b2 b3 &&& 0xFFFF0000#32 = 0x00000000#32 →
      ∃ corr bright, decode (b0 :: b1 :: b2 :: b3 :: rest) = .ok (.cal (u16be b2 b3) corr bright)) ∧
    (headerWord b0 b1 b2 b3 &&& 0xFFFF0000#32 = 0x00010000#32 →
      ∃ corr sat bright start stop px,
        decode (b0 :: b1 :: b2 :: b3 :: rest) = .ok (.rgb (u16be b2 b3) corr sat bright start stop px)) ∧
    (headerWord b0 b1 b2 b3 &&& 0xFFFF0000#32 = 0x00020000#32 →
      ∃ corr sat bright start stop px,
        decode (b0 :: b1 :: b2 :: b3 :: rest) = .ok (.hsv (u16be b2 b3) corr sat bright start stop px)) ∧
    (headerWord b0 b1 b2 b3 &&& 0xFFFF0000#32 = 0x00030000#32 →
      decode (b0 :: b1 :: b2 :: b3 :: rest) = .ok (.write (u16be b2 b3))) ∧
    (0x00040000#32 ≤ headerWord b0 b1 b2 b3 &&& 0xFFFF0000#32 →
      ∃ e, decode (b0 :: b1 :: b2 :: b3 :: rest) = .error e)

/-- R83, R85, R144: where the fields of a render command lie, for both types. How many triples a
decoded command carries is the model's reading (log 10). -/
def Obligations.RenderFieldsAtTheirOffsets : Prop :=
  ∀ bs : List Byte, 13 ≤ bs.length → bs.getD 0 0#8 = 0#8 →
    let start := u16be (bs.getD 9 0#8) (bs.getD 10 0#8)
    let stop := u16be (bs.getD 11 0#8) (bs.getD 12 0#8)
    ∃ px : List Triple,
      px.length = min (stop.toNat - start.toNat) ((bs.length - 13) / 3) ∧
      (∀ k, k < px.length →
        px[k]? = some ⟨bs.getD (13 + 3 * k) 0#8, bs.getD (14 + 3 * k) 0#8, bs.getD (15 + 3 * k) 0#8⟩) ∧
      (bs.getD 1 0#8 = 1#8 → decode bs = .ok (.rgb (u16be (bs.getD 2 0#8) (bs.getD 3 0#8))
        ⟨bs.getD 4 0#8, bs.getD 5 0#8, bs.getD 6 0#8⟩ (bs.getD 7 0#8) (bs.getD 8 0#8) start stop px)) ∧
      (bs.getD 1 0#8 = 2#8 → decode bs = .ok (.hsv (u16be (bs.getD 2 0#8) (bs.getD 3 0#8))
        ⟨bs.getD 4 0#8, bs.getD 5 0#8, bs.getD 6 0#8⟩ (bs.getD 7 0#8) (bs.getD 8 0#8) start stop px))

/-- R24: the field layout of CFG; the reserved bits are ignored. The layout is the spec's decision
D3 (log 14 and 17). -/
def Obligations.ConfigFieldLayout : Prop :=
  ∀ v : BitVec 32,
    (sampleConfig v).n.toNat = v.toNat % 65536 ∧
    ((sampleConfig v).hasWhite = true ↔ v.toNat / 65536 % 2 = 1) ∧
    (sampleConfig v).laneB.toNat = v.toNat / 131072 % 4 ∧
    (sampleConfig v).laneG.toNat = v.toNat / 524288 % 4 ∧
    (sampleConfig v).laneR.toNat = v.toNat / 2097152 % 4 ∧
    (sampleConfig v).laneW.toNat = v.toNat / 8388608 % 4 ∧
    sampleConfig (v &&& 0x01FFFFFF#32) = sampleConfig v

/-! ### The color transform engine -/

/-- R171: the seven laws of `scale`. Laws (iii) to (vii) are marked as the spec's inference from
R170. -/
def Obligations.ScaleLaws : Prop :=
  (∀ a : Byte, scale a 255#8 = a) ∧
  (∀ a : Byte, scale a 0#8 = 0#8) ∧
  (∀ a b : Byte, scale a b = scale b a) ∧
  (∀ a b : Byte, (scale a b).toNat ≤ min a.toNat b.toNat) ∧
  (∀ a a' b b' : Byte, a.toNat ≤ a'.toNat → b.toNat ≤ b'.toNat → (scale a b).toNat ≤ (scale a' b').toNat) ∧
  (∀ b : Byte, scale 255#8 b = b) ∧
  (∀ a b : Byte, scale a b = 0#8 ↔ a.toNat * b.toNat < 255)

/-- R175 with R172: each channel of the rainbow is the exact quotient, without wrap, and lies
between the two endpoints; at the start of a sector it is the endpoint. For every table and every
hue. The arithmetic is the spec's decision D14 (log 17). The table is a variable (log 3). -/
def Obligations.RainbowInterpolatesExactly : Prop :=
  ∀ (t : RainbowTable) (h : Byte),
    let third := h.toNat % 32 * 8 / 3
    let a := endpoint t (BitVec.ofNat 3 (h.toNat / 32))
    let b := endpoint t (BitVec.ofNat 3 ((h.toNat / 32 + 1) % 8))
    let out := rainbow t h
    (out.r.toNat = (a.r.toNat * (85 - third) + b.r.toNat * third) / 85 ∧
      min a.r.toNat b.r.toNat ≤ out.r.toNat ∧ out.r.toNat ≤ max a.r.toNat b.r.toNat) ∧
    (out.g.toNat = (a.g.toNat * (85 - third) + b.g.toNat * third) / 85 ∧
      min a.g.toNat b.g.toNat ≤ out.g.toNat ∧ out.g.toNat ≤ max a.g.toNat b.g.toNat) ∧
    (out.b.toNat = (a.b.toNat * (85 - third) + b.b.toNat * third) / 85 ∧
      min a.b.toNat b.b.toNat ≤ out.b.toNat ∧ out.b.toNat ≤ max a.b.toNat b.b.toNat) ∧
    (h.toNat % 32 = 0 → out = a)

/-- R174: the eight breakpoints, the two of the source as constants, the other six as the table
gives them. The six open entries are a parameter (D13, log 3), so no value of theirs is claimed. -/
def Obligations.RainbowBreakpoints : Prop :=
  ∀ t : RainbowTable,
    rainbow t 0#8 = ⟨255#8, 0#8, 0#8⟩ ∧ rainbow t 32#8 = ⟨171#8, 85#8, 0#8⟩ ∧
    rainbow t 64#8 = t.yellow ∧ rainbow t 96#8 = t.green ∧ rainbow t 128#8 = t.aqua ∧
    rainbow t 160#8 = t.blue ∧ rainbow t 192#8 = t.purple ∧ rainbow t 224#8 = t.pink

/-- R176: value squaring with its floor at 1, and that it is monotone. That it is monotone is marked
as the spec's inference. -/
def Obligations.ValueSquaring : Prop :=
  (∀ v : Byte, (vsq v).toNat =
    if v.toNat * v.toNat / 255 = 0 ∧ v ≠ 0#8 then 1 else v.toNat * v.toNat / 255) ∧
  (∀ v u : Byte, v.toNat ≤ u.toNat → (vsq v).toNat ≤ (vsq u).toNat)

/-- R178: the cases of DESAT in their order. The scope of the zero case is the spec's decision D16
(log 17). -/
def Obligations.DesatCases : Prop :=
  ∀ (c : Rgb) (σ : Byte),
    (∀ hasWhite, σ = 255#8 → desat hasWhite c σ = ⟨c.r, c.g, c.b, 0#8⟩) ∧
    (σ = 0#8 → desat true c σ = ⟨0#8, 0#8, 0#8, 255#8⟩ ∧ desat false c σ = ⟨255#8, 255#8, 255#8, 0#8⟩) ∧
    (σ ≠ 255#8 → σ ≠ 0#8 →
      desat false c σ = ⟨(blend c σ).r, (blend c σ).g, (blend c σ).b, 0#8⟩ ∧
      desat true c σ = extract (blend c σ))

/-- R179: every channel of BLEND is the exact sum of the two scaled parts, which never exceeds 255,
and a gray input moves by at most 1. BLEND is the spec's decision D15 (log 17). -/
def Obligations.BlendNeverOverflows : Prop :=
  ∀ (c : Rgb) (σ : Byte),
    let avg := (c.r.toNat + c.g.toNat + c.b.toNat) / 3
    let part := fun x : Nat => x * σ.toNat / 255 + avg * (255 - σ.toNat) / 255
    (blend c σ).r.toNat = part c.r.toNat ∧ (blend c σ).g.toNat = part c.g.toNat ∧
    (blend c σ).b.toNat = part c.b.toNat ∧
    (∀ x : Byte, part x.toNat ≤ (x.toNat * σ.toNat + avg * (255 - σ.toNat)) / 255 ∧
      (x.toNat * σ.toNat + avg * (255 - σ.toNat)) / 255 ≤ 255) ∧
    (c.r = c.g → c.g = c.b → (blend c σ).r.toNat ≤ c.r.toNat ∧ c.r.toNat ≤ (blend c σ).r.toNat + 1)

/-- R180: the smallest channel moves to white, exactly. EXTRACT is the spec's decision D15 (log 17).
-/
def Obligations.ExtractMovesMinimum : Prop :=
  ∀ c : Rgb,
    let m := min c.r.toNat (min c.g.toNat c.b.toNat)
    (extract c).w.toNat = m ∧ (extract c).r.toNat = c.r.toNat - m ∧
    (extract c).g.toNat = c.g.toNat - m ∧ (extract c).b.toNat = c.b.toNat - m ∧
    ((extract c).r = 0#8 ∨ (extract c).g = 0#8 ∨ (extract c).b = 0#8)

/-- R183 with R181, R182, R184: the tail of both transforms in its order, brightness on all four
channels and correction on three, each rounded down at its own stage. DESAT itself rests on the
spec's decisions D15 and D16 (log 17). -/
def Obligations.ScalingTailRoundsPerStage : Prop :=
  ∀ (hasWhite : Bool) (corr : Rgb) (sat bright : Byte) (c : Rgb),
    let d := desat hasWhite c sat
    let out := rgbx hasWhite corr sat bright c
    out.r.toNat = d.r.toNat * bright.toNat / 255 * corr.r.toNat / 255 ∧
    out.g.toNat = d.g.toNat * bright.toNat / 255 * corr.g.toNat / 255 ∧
    out.b.toNat = d.b.toNat * bright.toNat / 255 * corr.b.toNat / 255 ∧
    out.w.toNat = d.w.toNat * bright.toNat / 255

/-- R185 with R177: the HSV transform is the RGB transform of the rainbow color, with the pixel's
`s` scaling the saturation byte and its squared `v` scaling the brightness byte. How s and v enter
is the spec's decisions D11 and D12 (log 17). -/
def Obligations.HsvTransformIsRgbOfRainbow : Prop :=
  ∀ (t : RainbowTable) (hasWhite : Bool) (corr : Rgb) (sat bright h s v : Byte),
    ∃ satE brightE : Byte,
      satE.toNat = s.toNat * sat.toNat / 255 ∧
      brightE.toNat = (vsq v).toNat * bright.toNat / 255 ∧
      hsvx t hasWhite corr sat bright h s v = rgbx hasWhite corr satE brightE (rainbow t h)

/-- R184, R185 with R178: zero saturation ignores the color, on both strip types and in both
transforms. It rests on the spec's decisions D11, D12, D16 and D17 (log 17). -/
def Obligations.ZeroSaturationIgnoresColor : Prop :=
  (∀ (corr : Rgb) (bright : Byte) (c : Rgb),
    rgbx true corr 0#8 bright c = ⟨0#8, 0#8, 0#8, bright⟩ ∧
    rgbx false corr 0#8 bright c = ⟨scale bright corr.r, scale bright corr.g, scale bright corr.b, 0#8⟩) ∧
  (∀ (t : RainbowTable) (corr : Rgb) (sat bright h s v : Byte), s.toNat * sat.toNat < 255 →
    hsvx t true corr sat bright h s v = ⟨0#8, 0#8, 0#8, scale (vsq v) bright⟩ ∧
    hsvx t false corr sat bright h s v =
      let brightE := scale (vsq v) bright
      ⟨scale brightE corr.r, scale brightE corr.g, scale brightE corr.b, 0#8⟩)

/-- R185: `v = 0` gives black whatever the rest; R184: full saturation passes the color through to
the brightness stage with no white. The first clause rests on the spec's decision D12 (log 17). -/
def Obligations.BlackAndPassThrough : Prop :=
  (∀ (t : RainbowTable) (hasWhite : Bool) (corr : Rgb) (sat bright h s : Byte),
    hsvx t hasWhite corr sat bright h s 0#8 = ⟨0#8, 0#8, 0#8, 0#8⟩) ∧
  (∀ (hasWhite : Bool) (c : Rgb),
    rgbx hasWhite ⟨255#8, 255#8, 255#8⟩ 255#8 255#8 c = ⟨c.r, c.g, c.b, 0#8⟩)

/-- R186: the packed word, and, under a legal configuration, that each lane holds its channel and
that packing is injective. -/
def Obligations.PackPlacesEachChannel : Prop :=
  ∀ (c : Config) (p : Rgbw),
    pack c p = (p.r.setWidth 32 <<< (8 * c.laneR.toNat)) ||| (p.g.setWidth 32 <<< (8 * c.laneG.toNat)) |||
      (p.b.setWidth 32 <<< (8 * c.laneB.toNat)) ||| (p.w.setWidth 32 <<< (8 * c.laneW.toNat)) ∧
    (legalConfig c = true →
      laneByte c.laneR (pack c p) = p.r ∧ laneByte c.laneG (pack c p) = p.g ∧
      laneByte c.laneB (pack c p) = p.b ∧ laneByte c.laneW (pack c p) = p.w ∧
      ∀ q : Rgbw, pack c p = pack c q → p = q)

/-! ### The commands -/

/-- R143 with R220, R223: Calibration's result and frame. That a started flush is `phase` and `fptr`
is the spec's decision D18 (log 17). -/
def Obligations.CalibrationFillsAndFlushes : Prop :=
  ∀ (len : BitVec 16) (corr : Rgb) (bright : Byte) (s : State), s.fb.wf →
    ∃ t, exec (.cal len corr bright) s = .next t ∧
      t = { s with fb := t.fb, phase := .flushing, fptr := 0 } ∧
      ∀ i, t.fbWord i =
        if i < s.count then
          pack s.cfg ⟨scale corr.r bright, scale corr.g bright, scale corr.b bright, 0#8⟩
        else s.fbWord i

/-- R146 with R145, R147, R221: RenderRGB's result and frame. Pixel `i - s` is the triple the
command carries, or the buffer's where it carries none. That a triple the command does not carry is
read from the buffer is the model's reading (log 10). -/
def Obligations.RenderRgbWritesItsRange : Prop :=
  ∀ (len : BitVec 16) (corr : Rgb) (sat bright : Byte) (start stop : BitVec 16) (px : List Triple)
    (s : State), s.fb.wf →
    ∃ t, exec (.rgb len corr sat bright start stop px) s = .next t ∧
      t = { s with fb := t.fb } ∧
      ∀ i, t.fbWord i =
        if min start.toNat s.count ≤ i ∧ i < min stop.toNat s.count then
          let k := i - min start.toNat s.count
          let p := (px[k]?).getD ⟨s.cb (13 + 3 * k), s.cb (14 + 3 * k), s.cb (15 + 3 * k)⟩
          pack s.cfg (rgbx s.cfg.hasWhite corr sat bright ⟨p.p0, p.p1, p.p2⟩)
        else s.fbWord i

/-- R149 with R145, R147, R148, R221: RenderHSV's result and frame. That a triple the command does
not carry is read from the buffer is the model's reading (log 10). -/
def Obligations.RenderHsvWritesItsRange : Prop :=
  ∀ (len : BitVec 16) (corr : Rgb) (sat bright : Byte) (start stop : BitVec 16) (px : List Triple)
    (s : State), s.fb.wf →
    ∃ t, exec (.hsv len corr sat bright start stop px) s = .next t ∧
      t = { s with fb := t.fb } ∧
      ∀ i, t.fbWord i =
        if min start.toNat s.count ≤ i ∧ i < min stop.toNat s.count then
          let k := i - min start.toNat s.count
          let p := (px[k]?).getD ⟨s.cb (13 + 3 * k), s.cb (14 + 3 * k), s.cb (15 + 3 * k)⟩
          pack s.cfg (hsvx s.endpoints s.cfg.hasWhite corr sat bright p.p0 p.p1 p.p2)
        else s.fbWord i

/-- R150: WriteLEDs starts a flush and changes nothing else. That a started flush is `phase` and
`fptr` is the spec's decision D18 (log 17). -/
def Obligations.WriteLedsStartsFlush : Prop :=
  ∀ (len : BitVec 16) (s : State),
    exec (.write len) s = .next { s with phase := .flushing, fptr := 0 }

/-- R145: a range that is empty after clamping is a no-op, for both render commands. It is one
clause of R145. -/
def Obligations.EmptyRangeIsNoOp : Prop :=
  ∀ (len : BitVec 16) (corr : Rgb) (sat bright : Byte) (start stop : BitVec 16) (px : List Triple)
    (s : State), min stop.toNat s.count ≤ min start.toNat s.count →
    exec (.rgb len corr sat bright start stop px) s = .next s ∧
    exec (.hsv len corr sat bright start stop px) s = .next s

/-- R59: a render command is idempotent on the frame buffer, and on the whole state. R59 is marked
as the spec's inference. -/
def Obligations.RenderIsIdempotent : Prop :=
  ∀ (len : BitVec 16) (corr : Rgb) (sat bright : Byte) (start stop : BitVec 16) (px : List Triple)
    (s : State), s.fb.wf →
    (∃ t, exec (.rgb len corr sat bright start stop px) s = .next t ∧
      exec (.rgb len corr sat bright start stop px) t = .next t) ∧
    (∃ t, exec (.hsv len corr sat bright start stop px) s = .next t ∧
      exec (.hsv len corr sat bright start stop px) t = .next t)

/-- R151 with R240: every command completes; none writes the buffer or a framer register; only
Calibration and WriteLEDs start a flush; WriteLEDs writes no frame-buffer word. That a started flush
is `phase` and `fptr` is the spec's decision D18 (log 17). -/
def Obligations.OnlyCalAndWriteFlush : Prop :=
  ∀ (i : Instr) (s : State), ∃ t, exec i s = .next t ∧
    t.buf = s.buf ∧ t.fstate = s.fstate ∧ t.idx = s.idx ∧ t.dlen = s.dlen ∧ t.ctype = s.ctype ∧
    (match i with
     | .cal _ _ _ => t.phase = .flushing ∧ t.fptr = 0
     | .rgb _ _ _ _ _ _ _ => t.phase = s.phase ∧ t.fptr = s.fptr
     | .hsv _ _ _ _ _ _ _ => t.phase = s.phase ∧ t.fptr = s.fptr
     | .write _ => t.phase = .flushing ∧ t.fptr = 0 ∧ t.fb = s.fb)

/-! ### Dispatch -/

/-- R140, R141: a bad marker or a type of 4 or more changes nothing. For the types it is the spec's
decision D8 (log 17). -/
def Obligations.DispatchDropsBadHeaders : Prop :=
  ∀ s : State, (s.cb 0 ≠ 0#8 ∨ 4 ≤ (s.cb 1).toNat) → dispatch s = .next s

/-- R142, R143, R150: Calibration and WriteLEDs as the dispatcher reads them from the buffer. That a
started flush is `phase` and `fptr` is the spec's decision D18 (log 17). -/
def Obligations.DispatchReadsCalAndWrite : Prop :=
  ∀ s : State, s.cb 0 = 0#8 →
    (s.cb 1 = 0#8 → dispatch s = exec (.cal (u16be (s.cb 2) (s.cb 3)) ⟨s.cb 4, s.cb 5, s.cb 6⟩ (s.cb 7)) s) ∧
    (s.cb 1 = 3#8 → dispatch s = .next { s with phase := .flushing, fptr := 0 })

/-- R145, R146 with R144: a dispatched RenderRGB, every operand read from the buffer at its offset.
-/
def Obligations.DispatchedRenderRgb : Prop :=
  ∀ s : State, s.fb.wf → s.cb 0 = 0#8 → s.cb 1 = 1#8 →
    let lo := min (u16be (s.cb 9) (s.cb 10)).toNat s.count
    let hi := min (u16be (s.cb 11) (s.cb 12)).toNat s.count
    ∃ t, dispatch s = .next t ∧ t = { s with fb := t.fb } ∧
      ∀ i, t.fbWord i =
        if lo ≤ i ∧ i < hi then
          let o := (i - lo) * 3 + 13
          pack s.cfg (rgbx s.cfg.hasWhite ⟨s.cb 4, s.cb 5, s.cb 6⟩ (s.cb 7) (s.cb 8)
            ⟨s.cb o, s.cb (o + 1), s.cb (o + 2)⟩)
        else s.fbWord i

/-- R145, R149 with R144, R148: a dispatched RenderHSV, every operand read from the buffer. -/
def Obligations.DispatchedRenderHsv : Prop :=
  ∀ s : State, s.fb.wf → s.cb 0 = 0#8 → s.cb 1 = 2#8 →
    let lo := min (u16be (s.cb 9) (s.cb 10)).toNat s.count
    let hi := min (u16be (s.cb 11) (s.cb 12)).toNat s.count
    ∃ t, dispatch s = .next t ∧ t = { s with fb := t.fb } ∧
      ∀ i, t.fbWord i =
        if lo ≤ i ∧ i < hi then
          let o := (i - lo) * 3 + 13
          pack s.cfg (hsvx s.endpoints s.cfg.hasWhite ⟨s.cb 4, s.cb 5, s.cb 6⟩ (s.cb 7) (s.cb 8)
            (s.cb o) (s.cb (o + 1)) (s.cb (o + 2)))
        else s.fbWord i

/-! ### The framer -/

/-- R111: in Idle every byte but the start marker is discarded, and no state changes. -/
def Obligations.IdleDropsOtherBytes : Prop :=
  ∀ (s : State) (b : Byte), s.fstate = .idle → b ≠ 0#8 → takeStreamByte b s = .next s

/-- R110, R112: the start marker in Idle; the type byte in GotStart, and the framing error of a type
of 4 or more. That the two bytes are stored in the buffer is the spec's decision D4 (log 17). -/
def Obligations.MarkerAndTypeAreStored : Prop :=
  ∀ (s : State) (b : Byte), s.buf.wf →
    (s.fstate = .idle → b = 0#8 → ∃ t, takeStreamByte b s = .next t ∧
      t = { s with buf := t.buf, idx := 1, dlen := 0#16, fstate := .gotStart } ∧
      ∀ k, t.cb k = if k = 0 then 0#8 else s.cb k) ∧
    (s.fstate = .gotStart → b.toNat < 4 → ∃ t, takeStreamByte b s = .next t ∧
      t = { s with buf := t.buf, idx := 2, ctype := t.ctype, fstate := .gotType } ∧
      t.ctype.toNat = b.toNat ∧ ∀ k, t.cb k = if k = 1 then b else s.cb k) ∧
    (s.fstate = .gotStart → 4 ≤ b.toNat → takeStreamByte b s = .next { s with fstate := .idle })

/-- R113: the high length byte in GotType, every value accepted. That the byte is stored in the
buffer is the spec's decision D4 (log 17). -/
def Obligations.GotTypeTakesLengthHigh : Prop :=
  ∀ (s : State) (b : Byte), s.fstate = .gotType → s.buf.wf →
    ∃ t, takeStreamByte b s = .next t ∧
      t = { s with buf := t.buf, idx := 3, dlen := t.dlen, fstate := .gotLenHi } ∧
      t.dlen.toNat = b.toNat * 256 ∧ ∀ k, t.cb k = if k = 2 then b else s.cb k

/-- R114, R116: the low length byte in GotLenHi, then CheckComplete. The storing and the test are
the spec's decisions D4 and D6 (log 17). -/
def Obligations.GotLenHiTakesLengthLow : Prop :=
  ∀ (s : State) (b : Byte), s.fstate = .gotLenHi → s.buf.wf →
    ∃ t, t = { s with buf := t.buf, idx := 4, dlen := s.dlen ||| b.setWidth 16, fstate := .collecting } ∧
      (∀ k, t.cb k = if k = 3 then b else s.cb k) ∧
      takeStreamByte b s =
        if t.dlen.toNat = 4 ∨ t.cap = 4 then dispatch { t with fstate := .idle } else .next t

/-- R115, R116: a payload byte in Collecting, every value data (R118), then CheckComplete. The test
by equality is the spec's decision D6 (log 17). -/
def Obligations.CollectingStoresPayload : Prop :=
  ∀ (s : State) (b : Byte), s.fstate = .collecting → s.idx < s.cap → s.buf.wf →
    ∃ t, t = { s with buf := t.buf, idx := s.idx + 1 } ∧
      (∀ k, t.cb k = if k = s.idx then b else s.cb k) ∧
      takeStreamByte b s =
        if t.idx = t.dlen.toNat ∨ t.idx = t.cap then dispatch { t with fstate := .idle } else .next t

/-! ### Datagrams -/

/-- R120, R121: a datagram is copied, truncated to CAP, and dispatched; the framer registers and the
rest of the buffer are untouched. The datagram path is the spec's decision D7 (log 17). -/
def Obligations.DatagramIsCopiedAndDispatched : Prop :=
  ∀ (d : List Byte) (s : State), s.buf.wf →
    ∃ u t, u = { s with buf := u.buf } ∧
      (∀ k, u.cb k = if k < min d.length s.cap then d.getD k 0#8 else s.cb k) ∧
      takeDatagram d s = dispatch u ∧ dispatch u = .next t ∧
      t.fstate = s.fstate ∧ t.idx = s.idx ∧ t.dlen = s.dlen ∧ t.ctype = s.ctype ∧ t.buf = u.buf

/-- R120, R286: an empty datagram dispatches the buffer as it stands, so it repeats a WriteLEDs. It
is the spec's decision D26 (log 17). -/
def Obligations.EmptyDatagramRepeatsCommand : Prop :=
  (∀ s : State, takeDatagram [] s = dispatch s) ∧
  (∀ s : State, s.cb 0 = 0#8 → s.cb 1 = 3#8 →
    takeDatagram [] s = .next { s with phase := .flushing, fptr := 0 })

/-! ### Steps -/

/-- R38, R281: a stream turn takes the next byte when the port is ready, and otherwise leaves it
with its producer. Readiness is the spec's decisions D7 and D18, and the wait is the model's step
(log 4 and 5). -/
def Obligations.StreamTurnNeedsReady : Prop :=
  ∀ (s : State) (ts : List Turn), legalConfig s.cfg = true → s.turns = .stream :: ts →
    (∀ b bs, s.streamIn = b :: bs → s.phase = .ready →
      step s = takeStreamByte b { s with turns := ts, streamIn := bs }) ∧
    (s.streamIn = [] ∨ s.phase = .flushing → step s = .next { s with turns := ts })

/-- R122, R38: a datagram turn takes the next datagram whole when the framer is Idle and no flush
runs, and otherwise leaves it with its producer. Readiness is the spec's decision D7, and the wait
is the model's step (log 4 and 5). -/
def Obligations.DatagramTurnNeedsIdle : Prop :=
  ∀ (s : State) (ts : List Turn), legalConfig s.cfg = true → s.turns = .dgram :: ts →
    (∀ d ds, s.dgramIn = d :: ds → s.phase = .ready → s.fstate = .idle →
      step s = takeDatagram d { s with turns := ts, dgramIn := ds }) ∧
    (s.dgramIn = [] ∨ s.phase = .flushing ∨ s.fstate ≠ .idle → step s = .next { s with turns := ts })

/-- A step runs the decoded command: the command the whole buffer holds once the transaction's bytes
are stored, on both ingress paths (R116, R120, R140). The framing rests on the spec's decisions D4,
D6 and D7, the queues are the model's (log 4, 10 and 17). -/
def Obligations.StepRunsDecodedCommand : Prop :=
  (∀ (s u : State) (ts : List Turn) (d : List Byte) (ds : List (List Byte)) (i : Instr),
    legalConfig s.cfg = true → s.turns = .dgram :: ts → s.dgramIn = d :: ds → s.phase = .ready →
    s.fstate = .idle →
    u = { s with turns := ts, dgramIn := ds, buf := s.buf.writeList 0 (d.take s.cap) } →
    decode u.cbBytes = .ok i → step s = exec i u) ∧
  (∀ (s u : State) (ts : List Turn) (b : Byte) (bs : List Byte) (i : Instr),
    legalConfig s.cfg = true → s.turns = .stream :: ts → s.streamIn = b :: bs → s.phase = .ready →
    s.fstate = .collecting → s.idx < s.cap → (s.idx + 1 = s.dlen.toNat ∨ s.idx + 1 = s.cap) →
    u = { s with turns := ts, streamIn := bs, buf := s.buf.write s.idx b, idx := s.idx + 1, fstate := .idle } →
    decode u.cbBytes = .ok i → step s = exec i u) ∧
  (∀ (s u : State) (ts : List Turn) (b : Byte) (bs : List Byte) (i : Instr),
    legalConfig s.cfg = true → s.turns = .stream :: ts → s.streamIn = b :: bs → s.phase = .ready →
    s.fstate = .gotLenHi → s.dlen ||| b.setWidth 16 = 4#16 →
    u = { s with turns := ts, streamIn := bs, buf := s.buf.write 3 b, idx := 4, dlen := 4#16, fstate := .idle } →
    decode u.cbBytes = .ok i → step s = exec i u)

/-- R224: one accepted word. The flush registers are the spec's decision D18, and the turn is the
model's (log 4, 6 and 17). -/
def Obligations.FlushStepSendsOneWord : Prop :=
  ∀ (s : State) (ts : List Turn), legalConfig s.cfg = true → s.turns = .accept :: ts →
    s.phase = .flushing → s.fptr < s.count →
    step s = .next
      (if s.fptr + 1 = s.count then
        { s with turns := ts, txOut := s.txOut ++ [s.fbWord s.fptr], phase := .ready, fptr := 0 }
      else { s with turns := ts, txOut := s.txOut ++ [s.fbWord s.fptr], fptr := s.fptr + 1 })

/-- R225 with R38, R58, R226: whatever the producers offer meanwhile, and however long each
acceptance takes, a flush sends exactly the N words of the frame buffer as it stood at StartFlush,
in ascending order, and ends in Ready; no offer made meanwhile is lost. R225 is marked as the spec's
inference. That a flush ends needs the acceptances (D23, log 6). -/
def Obligations.FlushSendsWholeFrameBuffer : Prop :=
  ∀ (s : State) (ts rest : List Turn), legalConfig s.cfg = true → s.phase = .flushing → s.fptr = 0 →
    (∀ t ∈ ts, t = .stream ∨ t = .dgram ∨ t = .accept) → ts.count .accept + 1 = s.count →
    s.turns = ts ++ .accept :: rest →
    runSteps (ts.length + 1) s = .next
      { s with
        turns := rest
        phase := .ready
        fptr := 0
        txOut := s.txOut ++ (List.range s.count).map s.fbWord }

/-- R226: a transmitter that does not accept leaves the block in its flush, with both ingress ports
blocked and the offered word unchanged, for as long as that lasts. That waiting is a step is the
model's (log 5 and 6), after the spec's decision D23. -/
def Obligations.FlushWaitsForAcceptance : Prop :=
  ∀ (s : State) (ts rest : List Turn), legalConfig s.cfg = true → s.phase = .flushing →
    (∀ t ∈ ts, t = .stream ∨ t = .dgram) → s.turns = ts ++ rest →
    runSteps ts.length s = .next { s with turns := rest }

/-- R227 with R143, R225: after a Calibration the flush sends N copies of one word. R227 is marked
as the spec's inference. -/
def Obligations.CalibrationFlushIsUniform : Prop :=
  ∀ (s : State) (len : BitVec 16) (corr : Rgb) (bright : Byte) (rest : List Turn),
    legalConfig s.cfg = true → s.fb.wf → s.turns = List.replicate s.count .accept ++ rest →
    ∃ t u, exec (.cal len corr bright) s = .next t ∧ runSteps s.count t = .next u ∧
      u.phase = .ready ∧ u.turns = rest ∧
      u.txOut = s.txOut ++ List.replicate s.count
        (pack s.cfg ⟨scale corr.r bright, scale corr.g bright, scale corr.b bright, 0#8⟩)

/-- R82, R110 to R116 together: a command sent byte by byte on STREAM_IN, with its true length
declared, is run exactly when its last byte arrives, from the buffer that holds its bytes in front
of the stale ones. The framing rests on the spec's decisions D4 to D6, the queues are the model's
(log 4 and 17). -/
def Obligations.StreamedCommandRuns : Prop :=
  ∀ (s : State) (i : Instr) (bs : List Byte) (rest : List Turn),
    legalConfig s.cfg = true → s.buf.wf → i.complete = true →
    i.declared.toNat = (encode i).length → (encode i).length ≤ s.cap →
    s.phase = .ready → s.fstate = .idle → s.streamIn = encode i ++ bs →
    s.turns = List.replicate (encode i).length .stream ++ rest →
    runSteps (encode i).length s = exec i
      { s with
        turns := rest
        streamIn := bs
        buf := s.buf.writeList 0 (encode i)
        idx := (encode i).length
        dlen := i.declared
        ctype := i.typeByte.setWidth 2
        fstate := .idle }

/-- R120: a complete command sent as one datagram is run at once, whatever length it declares. The
datagram path is the spec's decision D7 (log 17). -/
def Obligations.DatagramCommandRuns : Prop :=
  ∀ (s : State) (i : Instr), s.buf.wf → i.complete = true → (encode i).length ≤ s.cap →
    takeDatagram (encode i) s = exec i { s with buf := s.buf.writeList 0 (encode i) }

/-- R270, R272 with R6: RST from any state. Most values are the spec's decisions D10 and D21; what
the host keeps is the model's (log 7, 8 and 15). -/
def Obligations.ResetFromAnyState : Prop :=
  ∀ (s : State) (v : BitVec 32) (ts : List Turn), s.turns = .reset v :: ts →
    (legalConfig (sampleConfig v) = true →
      ∃ t, step s = .next t ∧
        t = { s with turns := ts, cfg := sampleConfig v, fstate := .idle, idx := 0, dlen := 0#16,
                     ctype := 0#2, phase := .ready, fptr := 0, buf := t.buf, fb := t.fb } ∧
        (∀ k, t.cb k = 0#8) ∧ (∀ i, t.fbWord i = 0#32)) ∧
    (legalConfig (sampleConfig v) = false → step s = .refused .illegalConfig)

/-- R6: under an illegal configuration no port transaction has a meaning. It is the spec's decision
D27, at every port as the model reads it (log 8). -/
def Obligations.IllegalConfigIsRefused : Prop :=
  ∀ s : State, legalConfig s.cfg = false → s.turns ≠ [] → s.resetNext = false →
    step s = .refused .illegalConfig

/-- R271: the reset values the spec gives. But for `fstate` and `fb` the values are the spec's
decisions D10 and D21 (log 7). -/
def Obligations.ResetStateValues : Prop :=
  State.reset.fstate = .idle ∧ State.reset.idx = 0 ∧ State.reset.dlen = 0#16 ∧
  State.reset.ctype = 0#2 ∧ State.reset.phase = .ready ∧ State.reset.fptr = 0 ∧
  (∀ k, State.reset.cb k = 0#8) ∧ (∀ i, State.reset.fbWord i = 0#32) ∧
  State.reset.streamReady = true ∧ State.reset.dgramReady = true ∧ State.reset.txValid = false

/-- R253, R254: a block that waits holds all its state, and no offer is lost. That a wait is a step
is the model's (log 5), after the spec's decision D22. -/
def Obligations.WaitingHoldsAllState : Prop :=
  ∀ s : State, legalConfig s.cfg = true → s.waiting = true →
    step s = .next { s with turns := s.turns.tail }

/-- R254: a quiescent end is an end: without a reset the block moves no further. That a wait is a
step is the model's (log 5). -/
def Obligations.QuiescentStaysQuiescent : Prop :=
  ∀ s t : State, s.quiescent = true → s.resetNext = false → step s = .next t →
    t.quiescent = true ∧ t = { s with turns := s.turns.tail }

/-- R254 with R226, R283 and I10: a hang is kept. If the transmitter accepts nothing more, the block
stays in its flush, sends nothing and takes nothing; a datagram behind a part-framed stream command
that gets no more bytes is never taken. Neither is a quiescent end. They follow from the spec's
decisions D7 and D23, over the model's schedule (log 4, 6, 17 and 20). -/
def Obligations.HangIsKept : Prop :=
  ∀ s : State, legalConfig s.cfg = true → s.hung = true →
    s.waiting = true ∧ s.quiescent = false ∧
      ∃ t, step s = .next t ∧ t.hung = true ∧ t = { s with turns := s.turns.tail }

/-- R241: the error classes and what each leaves behind. The labels are the spec's decision D20, the
effects rest on D6 to D8 (log 17), and E_SHORTLEN is read as in log 19 and 21. -/
def Obligations.ErrorClassesAreAbsorbed : Prop :=
  (∀ (s : State) (b : Byte),
    (.hunt ∈ s.streamErrors b → takeStreamByte b s = .next s) ∧
    (.typeStream ∈ s.streamErrors b → takeStreamByte b s = .next { s with fstate := .idle }) ∧
    (s.idx < s.cap → s.buf.wf → .guard ∈ s.streamErrors b ∨ .shortLen ∈ s.streamErrors b →
      ∃ u, u = (s.frameByte b).1 ∧ u.fstate = .idle ∧ (∀ k, u.idx ≤ k → u.cb k = s.cb k) ∧
        takeStreamByte b s = dispatch u)) ∧
  (∀ s : State, (.markDgram ∈ s.dispatchErrors ∨ .typeDgram ∈ s.dispatchErrors ∨
      .rangeEmpty ∈ s.dispatchErrors) → dispatch s = .next s) ∧
  (∀ s : State, s.fb.wf → .rangeClamp ∈ s.dispatchErrors →
    let lo := min (u16be (s.cb 9) (s.cb 10)).toNat s.count
    let hi := min (u16be (s.cb 11) (s.cb 12)).toNat s.count
    ∃ t, dispatch s = .next t ∧ t = { s with fb := t.fb } ∧
      ∀ i, t.fbWord i =
        if lo ≤ i ∧ i < hi then
          let o := (i - lo) * 3 + 13
          let corr : Rgb := ⟨s.cb 4, s.cb 5, s.cb 6⟩
          pack s.cfg
            (if s.cb 1 = 1#8 then
              rgbx s.cfg.hasWhite corr (s.cb 7) (s.cb 8) ⟨s.cb o, s.cb (o + 1), s.cb (o + 2)⟩
            else
              hsvx s.endpoints s.cfg.hasWhite corr (s.cb 7) (s.cb 8) (s.cb o) (s.cb (o + 1)) (s.cb (o + 2)))
        else s.fbWord i) ∧
  (∀ (s : State) (d : List Byte), .dgramTrunc ∈ s.datagramErrors d →
    takeDatagram d s = takeDatagram (d.take s.cap) s)

/-! ### Invariants and whole-machine rules -/

/-- R117, R61, R32: the invariant holds at reset, and so does the dark white lane. The invariant is
the model's, and the configuration is that of log 2. -/
def Obligations.ResetMeetsInvariants : Prop := State.reset.Inv ∧ State.reset.whiteDark

/-- R117, R61, R32, R113, R114, R116: every step keeps the invariant. R117 and R61 are marked as the
spec's inferences; the other clauses are the model's invariant. -/
def Obligations.StepKeepsInv : Prop :=
  ∀ s t : State, s.Inv → step s = .next t → t.Inv

/-- R240, R61: from a state that meets the invariant no step faults, and the only refusal is a reset
that presents an illegal configuration. The two faults and the refusal are the model's (log 8 and
9), after R240 and D27. -/
def Obligations.StepNeverFaults : Prop :=
  ∀ s : State, s.Inv →
    (∃ t, step s = .next t) ∨
    (∃ v ts, s.turns = .reset v :: ts ∧ legalConfig (sampleConfig v) = false ∧
      step s = .refused .illegalConfig)

/-- R36: on an RGB strip the white lane of every frame-buffer word stays 0. R36 marks it as the
spec's inference. -/
def Obligations.StepKeepsWhiteLaneDark : Prop :=
  ∀ s t : State, s.Inv → s.whiteDark → step s = .next t → t.whiteDark

/-- R39, R270, R35, R226: between resets the configuration and the table are constant, and a step
sends at most one word, which is the word on offer, and only when it is accepted. R39 is marked as
the spec's inference, and the turns are the model's (log 1, 4 and 6). -/
def Obligations.OnlyAcceptSendsWords : Prop :=
  ∀ s t : State, step s = .next t → s.resetNext = false →
    t.cfg = s.cfg ∧ t.endpoints = s.endpoints ∧
    (t.txOut = s.txOut ∨
      (∃ ts, s.turns = .accept :: ts ∧ s.phase = .flushing ∧ t.txOut = s.txOut ++ [s.fbWord s.fptr]))

/-- R222, R58: a flush only reads the frame buffer, and while it runs nothing but a reset changes
the buffer, the frame buffer or the framer. It rests on the spec's decision D18 (log 17). -/
def Obligations.FlushLeavesBuffersAlone : Prop :=
  ∀ s t : State, step s = .next t → s.phase = .flushing → s.resetNext = false →
    t.fb = s.fb ∧ t.buf = s.buf ∧ t.fstate = s.fstate ∧ t.idx = s.idx ∧ t.dlen = s.dlen ∧
    t.ctype = s.ctype ∧ t.streamIn = s.streamIn ∧ t.dgramIn = s.dgramIn

/-- R30: `ctype` cannot be observed. Two states that differ in it alone take the same step, up to
it. The spec's sentence is R30's "So `ctype` cannot be observed". -/
def Obligations.CtypeIsUnobservable : Prop :=
  ∀ (s : State) (c : BitVec 2),
    (∀ t, step s = .next t → ∃ c', step { s with ctype := c } = .next { t with ctype := c' }) ∧
    (∀ f, step s = .fault f → step { s with ctype := c } = .fault f) ∧
    (∀ r, step s = .refused r → step { s with ctype := c } = .refused r)
end

