-- ==== Sys2Proof/Laws/Color.lean ====
section
/-!
SUPPORT. One specification lemma per function of the color engine: the exact number each narrowing
keeps (R11).
-/
namespace Sys2Proof.Machine

/-- The exact quotient of two channel values never exceeds the first. -/
theorem mul_div_255_le (a b : Nat) (hb : b ≤ 255) : a * b / 255 ≤ a := by
  have : a * b ≤ a * 255 := Nat.mul_le_mul_left a hb
  omega

theorem scale_toNat (a b : Byte) : (scale a b).toNat = a.toNat * b.toNat / 255 := by
  have := mul_div_255_le a.toNat b.toNat (by omega)
  rw [scale, BitVec.toNat_ofNat, Nat.mod_eq_of_lt (by omega)]

theorem hueOffset_eq (h : Byte) : hueOffset h = h.toNat % 32 := by
  simp [hueOffset]

theorem hueThird_eq (h : Byte) : hueThird h = h.toNat % 32 * 8 / 3 := by
  rw [hueThird, hueOffset_eq]

theorem hueThird_le (h : Byte) : hueThird h ≤ 82 := by
  rw [hueThird_eq]
  omega

theorem hueSector_eq (h : Byte) : hueSector h = BitVec.ofNat 3 (h.toNat / 32) := by
  apply BitVec.eq_of_toNat_eq
  simp [hueSector, Nat.shiftRight_eq_div_pow]

/-- The weighted mean of two channel values is exact and lies between them. -/
theorem interpolate_spec (a b : Byte) {third : Nat} (h : third ≤ 85) :
    (interpolate third a b).toNat = (a.toNat * (85 - third) + b.toNat * third) / 85 ∧
      min a.toNat b.toNat ≤ (a.toNat * (85 - third) + b.toNat * third) / 85 ∧
      (a.toNat * (85 - third) + b.toNat * third) / 85 ≤ max a.toNat b.toNat := by
  have split : ∀ x : Nat, x * (85 - third) + x * third = x * 85 := fun x => by
    rw [← Nat.mul_add]
    congr 1
    omega
  have lo := split (min a.toNat b.toNat)
  have hi := split (max a.toNat b.toNat)
  have h1 := Nat.mul_le_mul_right (85 - third) (Nat.min_le_left a.toNat b.toNat)
  have h2 := Nat.mul_le_mul_right third (Nat.min_le_right a.toNat b.toNat)
  have h3 := Nat.mul_le_mul_right (85 - third) (Nat.le_max_left a.toNat b.toNat)
  have h4 := Nat.mul_le_mul_right third (Nat.le_max_right a.toNat b.toNat)
  have ha := a.isLt
  have hb := b.isLt
  refine ⟨?_, by omega, by omega⟩
  rw [interpolate, BitVec.toNat_ofNat, Nat.mod_eq_of_lt (by omega)]

theorem average_toNat (c : Rgb) :
    (average c).toNat = (c.r.toNat + c.g.toNat + c.b.toNat) / 3 := by
  rw [average, BitVec.toNat_ofNat, Nat.mod_eq_of_lt (by omega)]

/-- A blend of two channel values: each part rounded down, the sum at most their exact mean. -/
theorem blendChannel_spec (avg sigma x : Byte) :
    (blendChannel avg sigma x).toNat =
        x.toNat * sigma.toNat / 255 + avg.toNat * (255 - sigma.toNat) / 255 ∧
      x.toNat * sigma.toNat + avg.toNat * (255 - sigma.toNat) ≤ 255 * 255 := by
  have hs : (255#8 - sigma).toNat = 255 - sigma.toNat := by
    have := sigma.isLt
    simp only [BitVec.toNat_sub, BitVec.toNat_ofNat]
    omega
  have h1 := Nat.mul_le_mul_right sigma.toNat (show x.toNat ≤ 255 by omega)
  have h2 := Nat.mul_le_mul_right (255 - sigma.toNat) (show avg.toNat ≤ 255 by omega)
  have h3 : 255 * sigma.toNat + 255 * (255 - sigma.toNat) = 255 * 255 := by
    have := sigma.isLt
    omega
  refine ⟨?_, by omega⟩
  rw [blendChannel, BitVec.toNat_ofNat, scale_toNat, scale_toNat, hs, Nat.mod_eq_of_lt (by omega)]

theorem minByte_toNat (a b : Byte) : (minByte a b).toNat = min a.toNat b.toNat := by
  unfold minByte
  split <;> omega

end Sys2Proof.Machine
end

