-- ==== Sys2Proof/Laws/Decode.lean ====
section
/-!
SUPPORT. One specification lemma per helper of the decoder and the encoder.
-/
namespace Sys2Proof

/-- `u16be(a, b) = a*256 + b` (R10). -/
theorem u16be_toNat (a b : Byte) : (u16be a b).toNat = a.toNat * 256 + b.toNat := by
  have h : (a ++ b : BitVec (8 + 8)).toNat = a.toNat * 256 + b.toNat := by
    rw [BitVec.toNat_append, ← Nat.shiftLeft_add_eq_or_of_lt b.isLt, Nat.shiftLeft_eq]
  exact h

theorem hiByte_toNat (x : BitVec 16) : (hiByte x).toNat = x.toNat / 256 := by
  have := x.isLt
  simp only [hiByte, BitVec.extractLsb'_toNat, Nat.shiftRight_eq_div_pow]
  omega

theorem loByte_toNat (x : BitVec 16) : (loByte x).toNat = x.toNat % 256 := by
  simp [loByte]

@[simp] theorem u16be_hi_lo (x : BitVec 16) : u16be (hiByte x) (loByte x) = x := by
  apply BitVec.eq_of_toNat_eq
  rw [u16be_toNat, hiByte_toNat, loByte_toNat]
  omega

theorem headerWord_toNat (b0 b1 b2 b3 : Byte) :
    (headerWord b0 b1 b2 b3).toNat =
      b0.toNat * 2 ^ 24 + b1.toNat * 2 ^ 16 + b2.toNat * 2 ^ 8 + b3.toNat := by
  have h : (b0 ++ b1 ++ b2 ++ b3 : BitVec (8 + 8 + 8 + 8)).toNat =
      b0.toNat * 2 ^ 24 + b1.toNat * 2 ^ 16 + b2.toNat * 2 ^ 8 + b3.toNat := by
    rw [BitVec.toNat_append, ← Nat.shiftLeft_add_eq_or_of_lt b3.isLt, Nat.shiftLeft_eq,
      BitVec.toNat_append, ← Nat.shiftLeft_add_eq_or_of_lt b2.isLt, Nat.shiftLeft_eq,
      BitVec.toNat_append, ← Nat.shiftLeft_add_eq_or_of_lt b1.isLt, Nat.shiftLeft_eq]
    omega
  exact h

@[simp] theorem tripleBytes_length (ts : List Triple) : (tripleBytes ts).length = 3 * ts.length := by
  induction ts with
  | nil => rfl
  | cons t ts ih =>
    simp only [tripleBytes, List.length_cons, ih]
    omega

/-- Taking as many triples as were laid out, with any bytes after them, gives them back. -/
theorem takeTriples_tripleBytes_append (ts : List Triple) (rest : List Byte) :
    takeTriples ts.length (tripleBytes ts ++ rest) = ts := by
  induction ts with
  | nil => cases rest <;> rfl
  | cons t ts ih => simp only [tripleBytes, List.length_cons, List.cons_append, takeTriples, ih]

/-- Taking at least as many triples as the bytes hold gives them all. -/
theorem takeTriples_tripleBytes {ts : List Triple} {n : Nat} (h : ts.length ≤ n) :
    takeTriples n (tripleBytes ts) = ts := by
  induction ts generalizing n with
  | nil => cases n <;> rfl
  | cons t ts ih =>
    cases n with
    | zero => simp at h
    | succ n => simp only [tripleBytes, takeTriples, ih (Nat.le_of_succ_le_succ h)]

theorem takeTriples_length : ∀ (n : Nat) (bs : List Byte),
    (takeTriples n bs).length = min n (bs.length / 3)
  | 0, _ => by simp [takeTriples]
  | n + 1, [] => by simp [takeTriples]
  | n + 1, [_] => by simp [takeTriples]
  | n + 1, [_, _] => by simp [takeTriples]
  | n + 1, _ :: _ :: _ :: rest => by
    simp only [takeTriples, List.length_cons, takeTriples_length n rest]
    omega

theorem Instr.typeByte_lt (i : Instr) : i.typeByte.toNat < 4 := by
  cases i <;> simp [Instr.typeByte]

end Sys2Proof
end

