-- ==== Sys2Proof/Laws/Memory.lean ====
section
/-!
SUPPORT. The laws of sparse storage: a read after a write, that a write leaves every other cell alone,
that every operation keeps the canonical form, and that canonical memories with equal reads are equal.
-/
namespace Sys2Proof

variable {w : Nat}

@[simp] theorem Memory.read_nil (a : Nat) : Memory.read ([] : Memory w) a = 0#w := rfl

theorem Memory.read_cons (k a : Nat) (x : BitVec w) (m : Memory w) :
    Memory.read ((k, x) :: m) a = if a = k then x else Memory.read m a := rfl

/-- A cell below every listed index reads 0. -/
theorem Memory.read_eq_zero {m : Memory w} {a : Nat} (h : ∀ c ∈ m, a < c.1) : m.read a = 0#w := by
  induction m with
  | nil => rfl
  | cons c m ih =>
    obtain ⟨k, x⟩ := c
    have hk : a < k := h (k, x) (by simp)
    rw [Memory.read_cons, if_neg (by omega)]
    exact ih fun c hc => h c (by simp [hc])

theorem Memory.mem_push {a : Nat} {v : BitVec w} {m : Memory w} {c : Nat × BitVec w}
    (h : c ∈ Memory.push a v m) : c = (a, v) ∧ v ≠ 0#w ∨ c ∈ m := by
  unfold Memory.push at h
  split at h
  · exact .inr h
  · rcases List.mem_cons.1 h with rfl | h
    · exact .inl ⟨rfl, ‹_›⟩
    · exact .inr h

theorem Memory.mem_write {m : Memory w} {a : Nat} {v : BitVec w} {c : Nat × BitVec w}
    (h : c ∈ m.write a v) : c = (a, v) ∧ v ≠ 0#w ∨ c ∈ m := by
  induction m with
  | nil => exact Memory.mem_push h
  | cons d m ih =>
    obtain ⟨k, x⟩ := d
    unfold Memory.write at h
    split at h
    · exact Memory.mem_push h
    · split at h
      · rcases Memory.mem_push h with h | h
        · exact .inl h
        · exact .inr (List.mem_cons_of_mem _ h)
      · rcases List.mem_cons.1 h with rfl | h
        · exact .inr (by simp)
        · exact (ih h).imp_right (List.mem_cons_of_mem _)

theorem Memory.push_wf {a : Nat} {v : BitVec w} {m : Memory w} (h : m.wf) (lt : ∀ c ∈ m, a < c.1) :
    (Memory.push a v m).wf := by
  unfold Memory.push
  split
  · exact h
  · refine ⟨List.pairwise_cons.2 ⟨fun c hc => lt c hc, h.1⟩, fun c hc => ?_⟩
    rcases List.mem_cons.1 hc with rfl | hc
    · assumption
    · exact h.2 c hc

theorem Memory.wf_tail {c : Nat × BitVec w} {m : Memory w} (h : Memory.wf (c :: m)) : Memory.wf m :=
  ⟨(List.pairwise_cons.1 h.1).2, fun d hd => h.2 d (List.mem_cons_of_mem _ hd)⟩

/-- A write keeps the canonical form. -/
theorem Memory.write_wf {m : Memory w} (h : m.wf) (a : Nat) (v : BitVec w) : (m.write a v).wf := by
  induction m with
  | nil => exact Memory.push_wf h (by simp)
  | cons d m ih =>
    obtain ⟨k, x⟩ := d
    have hk := (List.pairwise_cons.1 h.1).1
    unfold Memory.write
    split
    · refine Memory.push_wf h fun c hc => ?_
      rcases List.mem_cons.1 hc with rfl | hc
      · assumption
      · have := hk c hc
        simp only at this
        omega
    · split
      · subst a
        exact Memory.push_wf (Memory.wf_tail h) hk
      · refine ⟨List.pairwise_cons.2 ⟨fun c hc => ?_, (ih (Memory.wf_tail h)).1⟩, fun c hc => ?_⟩
        · rcases Memory.mem_write hc with ⟨rfl, -⟩ | hc
          · simp only
            omega
          · exact hk c hc
        · rcases List.mem_cons.1 hc with rfl | hc
          · exact h.2 _ (by simp)
          · exact (ih (Memory.wf_tail h)).2 c hc

theorem Memory.read_push {a b : Nat} {v : BitVec w} {m : Memory w} (lt : ∀ c ∈ m, a < c.1) :
    (Memory.push a v m).read b = if b = a then v else m.read b := by
  unfold Memory.push
  split
  · split
    · rw [Memory.read_eq_zero fun c hc => by have := lt c hc; omega]
      exact Eq.symm ‹_›
    · rfl
  · rfl

/-- What a read gives after a write, at every index. -/
theorem Memory.read_write {m : Memory w} (h : m.wf) (a b : Nat) (v : BitVec w) :
    (m.write a v).read b = if b = a then v else m.read b := by
  induction m with
  | nil => exact Memory.read_push (by simp)
  | cons d m ih =>
    obtain ⟨k, x⟩ := d
    have hk := (List.pairwise_cons.1 h.1).1
    unfold Memory.write
    split
    · refine Memory.read_push fun c hc => ?_
      rcases List.mem_cons.1 hc with rfl | hc
      · assumption
      · have := hk c hc
        simp only at this
        omega
    · split
      · subst a
        rw [Memory.read_push hk, Memory.read_cons]
        split <;> rfl
      · rw [Memory.read_cons, ih (Memory.wf_tail h), Memory.read_cons]
        split
        · rw [if_neg (by omega)]
        · rfl

/-- A write at an index below `n` keeps every listed index below `n`. -/
theorem Memory.write_below {m : Memory w} {n a : Nat} (h : m.below n) (ha : a < n) (v : BitVec w) :
    (m.write a v).below n := by
  intro c hc
  rcases Memory.mem_write hc with ⟨rfl, -⟩ | hc
  · exact ha
  · exact h c hc

/-- A run of writes keeps the canonical form. -/
theorem Memory.writeList_wf {m : Memory w} (h : m.wf) (a : Nat) (vs : List (BitVec w)) :
    (m.writeList a vs).wf := by
  induction vs generalizing m a with
  | nil => exact h
  | cons v vs ih => exact ih (Memory.write_wf h a v) (a + 1)

/-- A run of writes that ends at `n` or below keeps every listed index below `n`. -/
theorem Memory.writeList_below {m : Memory w} {n a : Nat} (h : m.below n) (vs : List (BitVec w))
    (hn : vs = [] ∨ a + vs.length ≤ n) : (m.writeList a vs).below n := by
  induction vs generalizing m a with
  | nil => exact h
  | cons v vs ih =>
    simp only [List.length_cons, reduceCtorEq, false_or] at hn
    exact ih (Memory.write_below h (by omega) v) (.inr (by omega))

/-- What a read gives after a run of writes, at every index. -/
theorem Memory.read_writeList {m : Memory w} (h : m.wf) (a b : Nat) (vs : List (BitVec w)) :
    (m.writeList a vs).read b = if a ≤ b ∧ b < a + vs.length then vs.getD (b - a) 0#w else m.read b := by
  induction vs generalizing m a with
  | nil =>
    rw [if_neg (by simp)]
    rfl
  | cons v vs ih =>
    rw [Memory.writeList, ih (Memory.write_wf h a v), Memory.read_write h, List.length_cons]
    by_cases hb : a + 1 ≤ b ∧ b < a + 1 + vs.length
    · rw [if_pos hb, if_pos (by omega), show b - a = (b - (a + 1)) + 1 by omega, List.getD_cons_succ]
    · rw [if_neg hb]
      by_cases hab : b = a
      · subst hab
        rw [if_pos rfl, if_pos (by omega), Nat.sub_self, List.getD_cons_zero]
      · rw [if_neg hab, if_neg (by omega)]

/-- A run of writes is the run of its first part, then of the rest. -/
theorem Memory.writeList_append (m : Memory w) (a : Nat) (xs ys : List (BitVec w)) :
    m.writeList a (xs ++ ys) = (m.writeList a xs).writeList (a + xs.length) ys := by
  induction xs generalizing m a with
  | nil => rfl
  | cons x xs ih =>
    simp only [List.cons_append, Memory.writeList, ih, List.length_cons]
    congr 1
    omega

/-- A listed index of a canonical memory reads a value other than 0. -/
theorem Memory.read_ne_zero {m : Memory w} (h : m.wf) {c : Nat × BitVec w} (hc : c ∈ m) :
    m.read c.1 ≠ 0#w := by
  induction m with
  | nil => cases hc
  | cons d m ih =>
    obtain ⟨k, x⟩ := d
    rw [Memory.read_cons]
    rcases List.mem_cons.1 hc with rfl | hc
    · rw [if_pos rfl]
      exact h.2 (k, x) (by simp)
    · have := (List.pairwise_cons.1 h.1).1 c hc
      simp only at this
      rw [if_neg (by omega)]
      exact ih (Memory.wf_tail h) hc

/-- A cell outside a memory whose listed indices are below `n` reads 0. -/
theorem Memory.read_of_below {m : Memory w} {n a : Nat} (h : m.below n) (ha : n ≤ a) :
    m.read a = 0#w := by
  induction m with
  | nil => rfl
  | cons d m ih =>
    obtain ⟨k, x⟩ := d
    have hk : k < n := h (k, x) (by simp)
    rw [Memory.read_cons, if_neg (by omega)]
    exact ih fun c hc => h c (by simp [hc])

/-- Canonical memories that read the same everywhere are the same data. -/
theorem Memory.ext_read {m n : Memory w} (hm : m.wf) (hn : n.wf) (h : ∀ a, m.read a = n.read a) :
    m = n := by
  induction m generalizing n with
  | nil =>
    cases n with
    | nil => rfl
    | cons c n => exact absurd (h c.1).symm (Memory.read_ne_zero hn (by simp))
  | cons c m ih =>
    cases n with
    | nil => exact absurd (h c.1) (Memory.read_ne_zero hm (by simp))
    | cons d n =>
      obtain ⟨k, x⟩ := c
      obtain ⟨l, y⟩ := d
      have hk := (List.pairwise_cons.1 hm.1).1
      have hl := (List.pairwise_cons.1 hn.1).1
      have key : k = l := by
        rcases Nat.lt_trichotomy k l with hlt | heq | hgt
        · have e := h k
          rw [Memory.read_cons, if_pos rfl, Memory.read_eq_zero fun c hc => ?_] at e
          · exact absurd e (hm.2 (k, x) (by simp))
          · rcases List.mem_cons.1 hc with rfl | hc
            · exact hlt
            · exact Nat.lt_trans hlt (hl c hc)
        · exact heq
        · have e := h l
          rw [Memory.read_cons l, if_pos rfl, Memory.read_eq_zero fun c hc => ?_] at e
          · exact absurd e.symm (hn.2 (l, y) (by simp))
          · rcases List.mem_cons.1 hc with rfl | hc
            · exact hgt
            · exact Nat.lt_trans hgt (hk c hc)
      subst key
      have hx : x = y := by simpa [Memory.read_cons] using h k
      subst hx
      congr 1
      refine ih (Memory.wf_tail hm) (Memory.wf_tail hn) fun a => ?_
      by_cases ha : a = k
      · subst ha
        rw [Memory.read_eq_zero hk, Memory.read_eq_zero hl]
      · simpa [Memory.read_cons, ha] using h a

end Sys2Proof
end

