-- ==== Sys2Proof/Laws/State.lean ====
section
/-!
SUPPORT. One lemma per field per update, each true by rfl, so that no proof unfolds a record update.
-/
namespace Sys2Proof.Machine

variable (s : State)

/-! ### setCb -/

@[simp] theorem State.setCb_cfg (k : Nat) (v : Byte) : (s.setCb k v).cfg = s.cfg := rfl
@[simp] theorem State.setCb_endpoints (k : Nat) (v : Byte) : (s.setCb k v).endpoints = s.endpoints := rfl
@[simp] theorem State.setCb_fstate (k : Nat) (v : Byte) : (s.setCb k v).fstate = s.fstate := rfl
@[simp] theorem State.setCb_idx (k : Nat) (v : Byte) : (s.setCb k v).idx = s.idx := rfl
@[simp] theorem State.setCb_dlen (k : Nat) (v : Byte) : (s.setCb k v).dlen = s.dlen := rfl
@[simp] theorem State.setCb_ctype (k : Nat) (v : Byte) : (s.setCb k v).ctype = s.ctype := rfl
@[simp] theorem State.setCb_phase (k : Nat) (v : Byte) : (s.setCb k v).phase = s.phase := rfl
@[simp] theorem State.setCb_fptr (k : Nat) (v : Byte) : (s.setCb k v).fptr = s.fptr := rfl
@[simp] theorem State.setCb_buf (k : Nat) (v : Byte) : (s.setCb k v).buf = s.buf.write k v := rfl
@[simp] theorem State.setCb_fb (k : Nat) (v : Byte) : (s.setCb k v).fb = s.fb := rfl
@[simp] theorem State.setCb_streamIn (k : Nat) (v : Byte) : (s.setCb k v).streamIn = s.streamIn := rfl
@[simp] theorem State.setCb_dgramIn (k : Nat) (v : Byte) : (s.setCb k v).dgramIn = s.dgramIn := rfl
@[simp] theorem State.setCb_turns (k : Nat) (v : Byte) : (s.setCb k v).turns = s.turns := rfl
@[simp] theorem State.setCb_txOut (k : Nat) (v : Byte) : (s.setCb k v).txOut = s.txOut := rfl
@[simp] theorem State.setCb_cap (k : Nat) (v : Byte) : (s.setCb k v).cap = s.cap := rfl
@[simp] theorem State.setCb_count (k : Nat) (v : Byte) : (s.setCb k v).count = s.count := rfl

/-! ### copyIn -/

@[simp] theorem State.copyIn_cfg (d : List Byte) : (s.copyIn d).cfg = s.cfg := rfl
@[simp] theorem State.copyIn_endpoints (d : List Byte) : (s.copyIn d).endpoints = s.endpoints := rfl
@[simp] theorem State.copyIn_fstate (d : List Byte) : (s.copyIn d).fstate = s.fstate := rfl
@[simp] theorem State.copyIn_idx (d : List Byte) : (s.copyIn d).idx = s.idx := rfl
@[simp] theorem State.copyIn_dlen (d : List Byte) : (s.copyIn d).dlen = s.dlen := rfl
@[simp] theorem State.copyIn_ctype (d : List Byte) : (s.copyIn d).ctype = s.ctype := rfl
@[simp] theorem State.copyIn_phase (d : List Byte) : (s.copyIn d).phase = s.phase := rfl
@[simp] theorem State.copyIn_fptr (d : List Byte) : (s.copyIn d).fptr = s.fptr := rfl
@[simp] theorem State.copyIn_buf (d : List Byte) : (s.copyIn d).buf = s.buf.writeList 0 (d.take s.cap) := rfl
@[simp] theorem State.copyIn_fb (d : List Byte) : (s.copyIn d).fb = s.fb := rfl
@[simp] theorem State.copyIn_streamIn (d : List Byte) : (s.copyIn d).streamIn = s.streamIn := rfl
@[simp] theorem State.copyIn_dgramIn (d : List Byte) : (s.copyIn d).dgramIn = s.dgramIn := rfl
@[simp] theorem State.copyIn_turns (d : List Byte) : (s.copyIn d).turns = s.turns := rfl
@[simp] theorem State.copyIn_txOut (d : List Byte) : (s.copyIn d).txOut = s.txOut := rfl
@[simp] theorem State.copyIn_cap (d : List Byte) : (s.copyIn d).cap = s.cap := rfl
@[simp] theorem State.copyIn_count (d : List Byte) : (s.copyIn d).count = s.count := rfl

/-! ### setIdx -/

@[simp] theorem State.setIdx_cfg (n : Nat) : (s.setIdx n).cfg = s.cfg := rfl
@[simp] theorem State.setIdx_endpoints (n : Nat) : (s.setIdx n).endpoints = s.endpoints := rfl
@[simp] theorem State.setIdx_fstate (n : Nat) : (s.setIdx n).fstate = s.fstate := rfl
@[simp] theorem State.setIdx_idx (n : Nat) : (s.setIdx n).idx = n := rfl
@[simp] theorem State.setIdx_dlen (n : Nat) : (s.setIdx n).dlen = s.dlen := rfl
@[simp] theorem State.setIdx_ctype (n : Nat) : (s.setIdx n).ctype = s.ctype := rfl
@[simp] theorem State.setIdx_phase (n : Nat) : (s.setIdx n).phase = s.phase := rfl
@[simp] theorem State.setIdx_fptr (n : Nat) : (s.setIdx n).fptr = s.fptr := rfl
@[simp] theorem State.setIdx_buf (n : Nat) : (s.setIdx n).buf = s.buf := rfl
@[simp] theorem State.setIdx_fb (n : Nat) : (s.setIdx n).fb = s.fb := rfl
@[simp] theorem State.setIdx_streamIn (n : Nat) : (s.setIdx n).streamIn = s.streamIn := rfl
@[simp] theorem State.setIdx_dgramIn (n : Nat) : (s.setIdx n).dgramIn = s.dgramIn := rfl
@[simp] theorem State.setIdx_turns (n : Nat) : (s.setIdx n).turns = s.turns := rfl
@[simp] theorem State.setIdx_txOut (n : Nat) : (s.setIdx n).txOut = s.txOut := rfl
@[simp] theorem State.setIdx_cap (n : Nat) : (s.setIdx n).cap = s.cap := rfl
@[simp] theorem State.setIdx_count (n : Nat) : (s.setIdx n).count = s.count := rfl

/-! ### setDlen -/

@[simp] theorem State.setDlen_cfg (v : BitVec 16) : (s.setDlen v).cfg = s.cfg := rfl
@[simp] theorem State.setDlen_endpoints (v : BitVec 16) : (s.setDlen v).endpoints = s.endpoints := rfl
@[simp] theorem State.setDlen_fstate (v : BitVec 16) : (s.setDlen v).fstate = s.fstate := rfl
@[simp] theorem State.setDlen_idx (v : BitVec 16) : (s.setDlen v).idx = s.idx := rfl
@[simp] theorem State.setDlen_dlen (v : BitVec 16) : (s.setDlen v).dlen = v := rfl
@[simp] theorem State.setDlen_ctype (v : BitVec 16) : (s.setDlen v).ctype = s.ctype := rfl
@[simp] theorem State.setDlen_phase (v : BitVec 16) : (s.setDlen v).phase = s.phase := rfl
@[simp] theorem State.setDlen_fptr (v : BitVec 16) : (s.setDlen v).fptr = s.fptr := rfl
@[simp] theorem State.setDlen_buf (v : BitVec 16) : (s.setDlen v).buf = s.buf := rfl
@[simp] theorem State.setDlen_fb (v : BitVec 16) : (s.setDlen v).fb = s.fb := rfl
@[simp] theorem State.setDlen_streamIn (v : BitVec 16) : (s.setDlen v).streamIn = s.streamIn := rfl
@[simp] theorem State.setDlen_dgramIn (v : BitVec 16) : (s.setDlen v).dgramIn = s.dgramIn := rfl
@[simp] theorem State.setDlen_turns (v : BitVec 16) : (s.setDlen v).turns = s.turns := rfl
@[simp] theorem State.setDlen_txOut (v : BitVec 16) : (s.setDlen v).txOut = s.txOut := rfl
@[simp] theorem State.setDlen_cap (v : BitVec 16) : (s.setDlen v).cap = s.cap := rfl
@[simp] theorem State.setDlen_count (v : BitVec 16) : (s.setDlen v).count = s.count := rfl

/-! ### setCtype -/

@[simp] theorem State.setCtype_cfg (v : BitVec 2) : (s.setCtype v).cfg = s.cfg := rfl
@[simp] theorem State.setCtype_endpoints (v : BitVec 2) : (s.setCtype v).endpoints = s.endpoints := rfl
@[simp] theorem State.setCtype_fstate (v : BitVec 2) : (s.setCtype v).fstate = s.fstate := rfl
@[simp] theorem State.setCtype_idx (v : BitVec 2) : (s.setCtype v).idx = s.idx := rfl
@[simp] theorem State.setCtype_dlen (v : BitVec 2) : (s.setCtype v).dlen = s.dlen := rfl
@[simp] theorem State.setCtype_ctype (v : BitVec 2) : (s.setCtype v).ctype = v := rfl
@[simp] theorem State.setCtype_phase (v : BitVec 2) : (s.setCtype v).phase = s.phase := rfl
@[simp] theorem State.setCtype_fptr (v : BitVec 2) : (s.setCtype v).fptr = s.fptr := rfl
@[simp] theorem State.setCtype_buf (v : BitVec 2) : (s.setCtype v).buf = s.buf := rfl
@[simp] theorem State.setCtype_fb (v : BitVec 2) : (s.setCtype v).fb = s.fb := rfl
@[simp] theorem State.setCtype_streamIn (v : BitVec 2) : (s.setCtype v).streamIn = s.streamIn := rfl
@[simp] theorem State.setCtype_dgramIn (v : BitVec 2) : (s.setCtype v).dgramIn = s.dgramIn := rfl
@[simp] theorem State.setCtype_turns (v : BitVec 2) : (s.setCtype v).turns = s.turns := rfl
@[simp] theorem State.setCtype_txOut (v : BitVec 2) : (s.setCtype v).txOut = s.txOut := rfl
@[simp] theorem State.setCtype_cap (v : BitVec 2) : (s.setCtype v).cap = s.cap := rfl
@[simp] theorem State.setCtype_count (v : BitVec 2) : (s.setCtype v).count = s.count := rfl

/-! ### setFstate -/

@[simp] theorem State.setFstate_cfg (f : FState) : (s.setFstate f).cfg = s.cfg := rfl
@[simp] theorem State.setFstate_endpoints (f : FState) : (s.setFstate f).endpoints = s.endpoints := rfl
@[simp] theorem State.setFstate_fstate (f : FState) : (s.setFstate f).fstate = f := rfl
@[simp] theorem State.setFstate_idx (f : FState) : (s.setFstate f).idx = s.idx := rfl
@[simp] theorem State.setFstate_dlen (f : FState) : (s.setFstate f).dlen = s.dlen := rfl
@[simp] theorem State.setFstate_ctype (f : FState) : (s.setFstate f).ctype = s.ctype := rfl
@[simp] theorem State.setFstate_phase (f : FState) : (s.setFstate f).phase = s.phase := rfl
@[simp] theorem State.setFstate_fptr (f : FState) : (s.setFstate f).fptr = s.fptr := rfl
@[simp] theorem State.setFstate_buf (f : FState) : (s.setFstate f).buf = s.buf := rfl
@[simp] theorem State.setFstate_fb (f : FState) : (s.setFstate f).fb = s.fb := rfl
@[simp] theorem State.setFstate_streamIn (f : FState) : (s.setFstate f).streamIn = s.streamIn := rfl
@[simp] theorem State.setFstate_dgramIn (f : FState) : (s.setFstate f).dgramIn = s.dgramIn := rfl
@[simp] theorem State.setFstate_turns (f : FState) : (s.setFstate f).turns = s.turns := rfl
@[simp] theorem State.setFstate_txOut (f : FState) : (s.setFstate f).txOut = s.txOut := rfl
@[simp] theorem State.setFstate_cap (f : FState) : (s.setFstate f).cap = s.cap := rfl
@[simp] theorem State.setFstate_count (f : FState) : (s.setFstate f).count = s.count := rfl

/-! ### toIdle -/

@[simp] theorem State.toIdle_cfg : (s.toIdle).cfg = s.cfg := rfl
@[simp] theorem State.toIdle_endpoints : (s.toIdle).endpoints = s.endpoints := rfl
@[simp] theorem State.toIdle_fstate : (s.toIdle).fstate = .idle := rfl
@[simp] theorem State.toIdle_idx : (s.toIdle).idx = s.idx := rfl
@[simp] theorem State.toIdle_dlen : (s.toIdle).dlen = s.dlen := rfl
@[simp] theorem State.toIdle_ctype : (s.toIdle).ctype = s.ctype := rfl
@[simp] theorem State.toIdle_phase : (s.toIdle).phase = s.phase := rfl
@[simp] theorem State.toIdle_fptr : (s.toIdle).fptr = s.fptr := rfl
@[simp] theorem State.toIdle_buf : (s.toIdle).buf = s.buf := rfl
@[simp] theorem State.toIdle_fb : (s.toIdle).fb = s.fb := rfl
@[simp] theorem State.toIdle_streamIn : (s.toIdle).streamIn = s.streamIn := rfl
@[simp] theorem State.toIdle_dgramIn : (s.toIdle).dgramIn = s.dgramIn := rfl
@[simp] theorem State.toIdle_turns : (s.toIdle).turns = s.turns := rfl
@[simp] theorem State.toIdle_txOut : (s.toIdle).txOut = s.txOut := rfl
@[simp] theorem State.toIdle_cap : (s.toIdle).cap = s.cap := rfl
@[simp] theorem State.toIdle_count : (s.toIdle).count = s.count := rfl

/-! ### writeRange -/

@[simp] theorem State.writeRange_cfg (lo : Nat) (ws : List Word) : (s.writeRange lo ws).cfg = s.cfg := rfl
@[simp] theorem State.writeRange_endpoints (lo : Nat) (ws : List Word) : (s.writeRange lo ws).endpoints = s.endpoints := rfl
@[simp] theorem State.writeRange_fstate (lo : Nat) (ws : List Word) : (s.writeRange lo ws).fstate = s.fstate := rfl
@[simp] theorem State.writeRange_idx (lo : Nat) (ws : List Word) : (s.writeRange lo ws).idx = s.idx := rfl
@[simp] theorem State.writeRange_dlen (lo : Nat) (ws : List Word) : (s.writeRange lo ws).dlen = s.dlen := rfl
@[simp] theorem State.writeRange_ctype (lo : Nat) (ws : List Word) : (s.writeRange lo ws).ctype = s.ctype := rfl
@[simp] theorem State.writeRange_phase (lo : Nat) (ws : List Word) : (s.writeRange lo ws).phase = s.phase := rfl
@[simp] theorem State.writeRange_fptr (lo : Nat) (ws : List Word) : (s.writeRange lo ws).fptr = s.fptr := rfl
@[simp] theorem State.writeRange_buf (lo : Nat) (ws : List Word) : (s.writeRange lo ws).buf = s.buf := rfl
@[simp] theorem State.writeRange_fb (lo : Nat) (ws : List Word) : (s.writeRange lo ws).fb = s.fb.writeList lo ws := rfl
@[simp] theorem State.writeRange_streamIn (lo : Nat) (ws : List Word) : (s.writeRange lo ws).streamIn = s.streamIn := rfl
@[simp] theorem State.writeRange_dgramIn (lo : Nat) (ws : List Word) : (s.writeRange lo ws).dgramIn = s.dgramIn := rfl
@[simp] theorem State.writeRange_turns (lo : Nat) (ws : List Word) : (s.writeRange lo ws).turns = s.turns := rfl
@[simp] theorem State.writeRange_txOut (lo : Nat) (ws : List Word) : (s.writeRange lo ws).txOut = s.txOut := rfl
@[simp] theorem State.writeRange_cap (lo : Nat) (ws : List Word) : (s.writeRange lo ws).cap = s.cap := rfl
@[simp] theorem State.writeRange_count (lo : Nat) (ws : List Word) : (s.writeRange lo ws).count = s.count := rfl

/-! ### fill -/

@[simp] theorem State.fill_cfg (px : Word) : (s.fill px).cfg = s.cfg := rfl
@[simp] theorem State.fill_endpoints (px : Word) : (s.fill px).endpoints = s.endpoints := rfl
@[simp] theorem State.fill_fstate (px : Word) : (s.fill px).fstate = s.fstate := rfl
@[simp] theorem State.fill_idx (px : Word) : (s.fill px).idx = s.idx := rfl
@[simp] theorem State.fill_dlen (px : Word) : (s.fill px).dlen = s.dlen := rfl
@[simp] theorem State.fill_ctype (px : Word) : (s.fill px).ctype = s.ctype := rfl
@[simp] theorem State.fill_phase (px : Word) : (s.fill px).phase = s.phase := rfl
@[simp] theorem State.fill_fptr (px : Word) : (s.fill px).fptr = s.fptr := rfl
@[simp] theorem State.fill_buf (px : Word) : (s.fill px).buf = s.buf := rfl
@[simp] theorem State.fill_fb (px : Word) : (s.fill px).fb = s.fb.writeList 0 (List.replicate s.count px) := rfl
@[simp] theorem State.fill_streamIn (px : Word) : (s.fill px).streamIn = s.streamIn := rfl
@[simp] theorem State.fill_dgramIn (px : Word) : (s.fill px).dgramIn = s.dgramIn := rfl
@[simp] theorem State.fill_turns (px : Word) : (s.fill px).turns = s.turns := rfl
@[simp] theorem State.fill_txOut (px : Word) : (s.fill px).txOut = s.txOut := rfl
@[simp] theorem State.fill_cap (px : Word) : (s.fill px).cap = s.cap := rfl
@[simp] theorem State.fill_count (px : Word) : (s.fill px).count = s.count := rfl

/-! ### startFlush -/

@[simp] theorem State.startFlush_cfg : (s.startFlush).cfg = s.cfg := rfl
@[simp] theorem State.startFlush_endpoints : (s.startFlush).endpoints = s.endpoints := rfl
@[simp] theorem State.startFlush_fstate : (s.startFlush).fstate = s.fstate := rfl
@[simp] theorem State.startFlush_idx : (s.startFlush).idx = s.idx := rfl
@[simp] theorem State.startFlush_dlen : (s.startFlush).dlen = s.dlen := rfl
@[simp] theorem State.startFlush_ctype : (s.startFlush).ctype = s.ctype := rfl
@[simp] theorem State.startFlush_phase : (s.startFlush).phase = .flushing := rfl
@[simp] theorem State.startFlush_fptr : (s.startFlush).fptr = 0 := rfl
@[simp] theorem State.startFlush_buf : (s.startFlush).buf = s.buf := rfl
@[simp] theorem State.startFlush_fb : (s.startFlush).fb = s.fb := rfl
@[simp] theorem State.startFlush_streamIn : (s.startFlush).streamIn = s.streamIn := rfl
@[simp] theorem State.startFlush_dgramIn : (s.startFlush).dgramIn = s.dgramIn := rfl
@[simp] theorem State.startFlush_turns : (s.startFlush).turns = s.turns := rfl
@[simp] theorem State.startFlush_txOut : (s.startFlush).txOut = s.txOut := rfl
@[simp] theorem State.startFlush_cap : (s.startFlush).cap = s.cap := rfl
@[simp] theorem State.startFlush_count : (s.startFlush).count = s.count := rfl

/-! ### tx -/

@[simp] theorem State.tx_cfg (v : Word) : (s.tx v).cfg = s.cfg := rfl
@[simp] theorem State.tx_endpoints (v : Word) : (s.tx v).endpoints = s.endpoints := rfl
@[simp] theorem State.tx_fstate (v : Word) : (s.tx v).fstate = s.fstate := rfl
@[simp] theorem State.tx_idx (v : Word) : (s.tx v).idx = s.idx := rfl
@[simp] theorem State.tx_dlen (v : Word) : (s.tx v).dlen = s.dlen := rfl
@[simp] theorem State.tx_ctype (v : Word) : (s.tx v).ctype = s.ctype := rfl
@[simp] theorem State.tx_phase (v : Word) : (s.tx v).phase = s.phase := rfl
@[simp] theorem State.tx_fptr (v : Word) : (s.tx v).fptr = s.fptr := rfl
@[simp] theorem State.tx_buf (v : Word) : (s.tx v).buf = s.buf := rfl
@[simp] theorem State.tx_fb (v : Word) : (s.tx v).fb = s.fb := rfl
@[simp] theorem State.tx_streamIn (v : Word) : (s.tx v).streamIn = s.streamIn := rfl
@[simp] theorem State.tx_dgramIn (v : Word) : (s.tx v).dgramIn = s.dgramIn := rfl
@[simp] theorem State.tx_turns (v : Word) : (s.tx v).turns = s.turns := rfl
@[simp] theorem State.tx_txOut (v : Word) : (s.tx v).txOut = s.txOut ++ [v] := rfl
@[simp] theorem State.tx_cap (v : Word) : (s.tx v).cap = s.cap := rfl
@[simp] theorem State.tx_count (v : Word) : (s.tx v).count = s.count := rfl

/-! ### resetWith -/

@[simp] theorem State.resetWith_cfg (c : Config) : (s.resetWith c).cfg = c := rfl
@[simp] theorem State.resetWith_endpoints (c : Config) : (s.resetWith c).endpoints = s.endpoints := rfl
@[simp] theorem State.resetWith_fstate (c : Config) : (s.resetWith c).fstate = .idle := rfl
@[simp] theorem State.resetWith_idx (c : Config) : (s.resetWith c).idx = 0 := rfl
@[simp] theorem State.resetWith_dlen (c : Config) : (s.resetWith c).dlen = 0#16 := rfl
@[simp] theorem State.resetWith_ctype (c : Config) : (s.resetWith c).ctype = 0#2 := rfl
@[simp] theorem State.resetWith_phase (c : Config) : (s.resetWith c).phase = .ready := rfl
@[simp] theorem State.resetWith_fptr (c : Config) : (s.resetWith c).fptr = 0 := rfl
@[simp] theorem State.resetWith_buf (c : Config) : (s.resetWith c).buf = [] := rfl
@[simp] theorem State.resetWith_fb (c : Config) : (s.resetWith c).fb = [] := rfl
@[simp] theorem State.resetWith_streamIn (c : Config) : (s.resetWith c).streamIn = s.streamIn := rfl
@[simp] theorem State.resetWith_dgramIn (c : Config) : (s.resetWith c).dgramIn = s.dgramIn := rfl
@[simp] theorem State.resetWith_turns (c : Config) : (s.resetWith c).turns = s.turns := rfl
@[simp] theorem State.resetWith_txOut (c : Config) : (s.resetWith c).txOut = s.txOut := rfl

end Sys2Proof.Machine
end

