-- ==== Sys2Proof/Laws/Ops.lean ====
section
/-!
SUPPORT. What each shared operation does, said once through reads.
-/
namespace Sys2Proof.Machine

theorem State.cap_eq (s : State) : s.cap = 3 * s.count + 64 := rfl

@[simp] theorem State.cbBytes_length (s : State) : s.cbBytes.length = s.cap := by
  simp [State.cbBytes]

theorem State.cbBytes_getD (s : State) {k : Nat} (h : k < s.cap) : s.cbBytes.getD k 0#8 = s.cb k := by
  simp [State.cbBytes, h]

theorem State.cb_setCb {s : State} (h : s.buf.wf) (a k : Nat) (v : Byte) :
    (s.setCb a v).cb k = if k = a then v else s.cb k :=
  Memory.read_write h a k v

/-- A copied datagram fills the front of the buffer, up to CAP, and leaves the rest (R120, R121). -/
theorem State.cb_copyIn {s : State} (h : s.buf.wf) (d : List Byte) (k : Nat) :
    (s.copyIn d).cb k = if k < min d.length s.cap then d.getD k 0#8 else s.cb k := by
  rw [State.cb, State.copyIn_buf, Memory.read_writeList h]
  simp only [Nat.zero_le, true_and, Nat.zero_add, List.length_take, Nat.sub_zero]
  rw [Nat.min_comm]
  refine if_ctx_congr Iff.rfl (fun hk => ?_) fun _ => rfl
  simp [show k < s.cap by omega]

/-- Bytes written at the front of the buffer stand in front of what the dispatcher reads (R55, R67). -/
theorem State.cbBytes_writeList {s : State} (h : s.buf.wf) {xs : List Byte} (hx : xs.length ≤ s.cap) :
    ({ s with buf := s.buf.writeList 0 xs } : State).cbBytes = xs ++ s.cbBytes.drop xs.length := by
  refine List.ext_getElem (by simp [State.cap]; simp [State.cap] at hx; omega) fun i h1 h2 => ?_
  simp only [State.cbBytes, List.getElem_map, List.getElem_range, State.cb]
  rw [Memory.read_writeList h]
  simp only [List.getElem_append]
  by_cases hc : i < xs.length
  · simp [hc]
  · simp only [Nat.zero_le, Nat.zero_add, true_and, hc, if_false, dif_neg, not_false_eq_true,
      List.getElem_drop, List.getElem_map, List.getElem_range]
    rw [show xs.length + (i - xs.length) = i by omega]
    rfl

theorem State.fbWord_writeRange {s : State} (h : s.fb.wf) (lo i : Nat) (ws : List Word) :
    (s.writeRange lo ws).fbWord i =
      if lo ≤ i ∧ i < lo + ws.length then ws.getD (i - lo) 0#32 else s.fbWord i :=
  Memory.read_writeList h lo i ws

/-- Fill gives every slot the word (R220). -/
theorem State.fbWord_fill {s : State} (h : s.fb.wf) (px : Word) (i : Nat) :
    (s.fill px).fbWord i = if i < s.count then px else s.fbWord i := by
  rw [State.fill, State.fbWord_writeRange h]
  simp only [Nat.zero_le, true_and, Nat.zero_add, List.length_replicate, Nat.sub_zero]
  refine if_ctx_congr Iff.rfl (fun hi => ?_) fun _ => rfl
  simp [hi]

/-- The render loop writes its clamped range and nothing else (R145, R221). -/
theorem State.fbWord_render {s : State} (h : s.fb.wf) (start stop : BitVec 16) (px : List Triple)
    (color : Triple → Rgbw) (i : Nat) :
    (s.render start stop px color).fbWord i =
      if s.clamp start ≤ i ∧ i < s.clamp stop then pack s.cfg (color (s.pixel px (i - s.clamp start)))
      else s.fbWord i := by
  rw [State.render, State.fbWord_writeRange h]
  simp only [State.rangeWords, List.length_map, List.length_range]
  refine if_ctx_congr (by omega) (fun hi => ?_) fun _ => rfl
  simp [show i - s.clamp start < s.clamp stop - s.clamp start by omega]

/-- A render command changes the frame buffer alone. -/
theorem State.render_eq (s : State) (start stop : BitVec 16) (px : List Triple) (color : Triple → Rgbw) :
    s.render start stop px color = { s with fb := (s.render start stop px color).fb } := rfl

/-- Every slot a render command writes lies below N (R61). -/
theorem State.render_fb_good {s : State} (h : s.fb.wf ∧ s.fb.below s.count) (start stop : BitVec 16)
    (px : List Triple) (color : Triple → Rgbw) :
    (s.render start stop px color).fb.wf ∧ (s.render start stop px color).fb.below s.count := by
  refine ⟨Memory.writeList_wf h.1 _ _, Memory.writeList_below h.2 _ ?_⟩
  simp only [State.rangeWords, List.map_eq_nil_iff, List.range_eq_nil, List.length_map,
    List.length_range, State.clamp]
  omega

theorem State.fill_fb_good {s : State} (h : s.fb.wf ∧ s.fb.below s.count) (px : Word) :
    (s.fill px).fb.wf ∧ (s.fill px).fb.below s.count := by
  refine ⟨Memory.writeList_wf h.1 _ _, Memory.writeList_below h.2 _ ?_⟩
  simp

/-- CheckComplete either leaves the state and dispatches nothing, or sends the framer to Idle. -/
theorem State.checkComplete_cases (s : State) :
    ((s.idx = s.dlen.toNat ∨ s.idx = s.cap) ∧ s.checkComplete = (s.toIdle, true)) ∨
      (¬(s.idx = s.dlen.toNat ∨ s.idx = s.cap) ∧ s.checkComplete = (s, false)) := by
  unfold State.checkComplete State.complete
  by_cases h : s.idx = s.dlen.toNat ∨ s.idx = s.cap
  · exact .inl ⟨h, by simp [h]⟩
  · exact .inr ⟨h, by simp [h]⟩

end Sys2Proof.Machine
end

