-- ==== Sys2Proof/Laws/PerInstr.lean ====
section
/-!
SUPPORT. A family of statements about the commands as syntax, one lemma per constructor: the header of
`30_encoding.md` R80, the type of R86, and the declared length of R90's `LEN=d`.
-/
namespace Sys2Proof.Laws.HeaderBytes

/-- The encoding begins with the marker, the type and the declared length, big-endian; the type is one
of the four; and `LEN=d` sets the declared length and nothing else that the header shows. -/
def Statement (i : Instr) : Prop :=
  (∃ rest, encode i = 0x00#8 :: i.typeByte :: hiByte i.declared :: loByte i.declared :: rest) ∧
    i.typeByte.toNat < 4 ∧
    ∀ d, (i.withDeclared d).declared = d ∧ (i.withDeclared d).typeByte = i.typeByte ∧
      (i.withDeclared d).payload = i.payload

theorem cal (len : BitVec 16) (corr : Rgb) (bright : Byte) : Statement (.cal len corr bright) :=
  ⟨⟨_, rfl⟩, by simp [Instr.typeByte], fun _ => ⟨rfl, rfl, rfl⟩⟩

theorem rgb (len : BitVec 16) (corr : Rgb) (sat bright : Byte) (start stop : BitVec 16)
    (pixels : List Triple) : Statement (.rgb len corr sat bright start stop pixels) :=
  ⟨⟨_, rfl⟩, by simp [Instr.typeByte], fun _ => ⟨rfl, rfl, rfl⟩⟩

theorem hsv (len : BitVec 16) (corr : Rgb) (sat bright : Byte) (start stop : BitVec 16)
    (pixels : List Triple) : Statement (.hsv len corr sat bright start stop pixels) :=
  ⟨⟨_, rfl⟩, by simp [Instr.typeByte], fun _ => ⟨rfl, rfl, rfl⟩⟩

theorem write (len : BitVec 16) : Statement (.write len) :=
  ⟨⟨_, rfl⟩, by simp [Instr.typeByte], fun _ => ⟨rfl, rfl, rfl⟩⟩

end Sys2Proof.Laws.HeaderBytes
end

