-- ==== Sys2Proof/Laws/Sequencer.lean ====
section
/-!
SUPPORT. What a dispatch and a step can do, said once; every rule about the whole machine is a case
analysis over these.
-/
namespace Sys2Proof.Machine

/-- A dispatch runs the command the buffer holds, or drops it. -/
theorem dispatch_cases (s : State) :
    (∃ i, decode s.cbBytes = .ok i ∧ dispatch s = exec i s) ∨
      ((∃ e, decode s.cbBytes = .error e) ∧ dispatch s = .next s) := by
  unfold dispatch
  split
  · exact .inl ⟨_, ‹_›, rfl⟩
  · exact .inr ⟨⟨_, ‹_›⟩, rfl⟩

/-- What a turn can do: a reset or its refusal, the refusal of an illegal configuration, a wait, a
taken byte, a taken datagram, or a flush step. -/
inductive TurnCase (t : Turn) (s : State) : Host.Outcome State Fault Refusal → Prop
  | reset (v : BitVec 32) : t = .reset v → TurnCase t s (applyReset v s)
  | illegal : legalConfig s.cfg = false → (∀ v, t ≠ .reset v) → TurnCase t s (.refused .illegalConfig)
  | wait : legalConfig s.cfg = true → State.waiting { s with turns := t :: s.turns } = true →
      TurnCase t s (.next s)
  | byte (b : Byte) (bs : List Byte) : t = .stream → legalConfig s.cfg = true → s.streamIn = b :: bs →
      s.phase = .ready → TurnCase t s (takeStreamByte b { s with streamIn := bs })
  | datagram (d : List Byte) (ds : List (List Byte)) : t = .dgram → legalConfig s.cfg = true →
      s.dgramIn = d :: ds → s.phase = .ready → s.fstate = .idle →
      TurnCase t s (takeDatagram d { s with dgramIn := ds })
  | word : t = .accept → legalConfig s.cfg = true → s.phase = .flushing → TurnCase t s (flushStep s)

theorem takeTurn_cases (t : Turn) (s : State) : TurnCase t s (takeTurn t s) := by
  cases t with
  | reset v => exact .reset v rfl
  | stream =>
    simp only [takeTurn]
    split
    · rename_i h
      unfold streamTurn
      split
      · exact .wait h (by simp [State.waiting, *])
      · rename_i b bs hq
        split
        · rename_i hr
          exact .byte b bs rfl h hq (by simpa [State.streamReady] using hr)
        · exact .wait h (by simp_all [State.waiting, State.streamReady])
    · exact .illegal (Bool.eq_false_of_not_eq_true ‹_›) (by simp)
  | dgram =>
    simp only [takeTurn]
    split
    · rename_i h
      unfold dgramTurn
      split
      · exact .wait h (by simp [State.waiting, *])
      · rename_i d ds hq
        split
        · rename_i hr
          have hr : s.phase = .ready ∧ s.fstate = .idle := by simpa [State.dgramReady] using hr
          exact .datagram d ds rfl h hq hr.1 hr.2
        · exact .wait h (by simp_all [State.waiting, State.dgramReady, imp_iff_not_or])
    · exact .illegal (Bool.eq_false_of_not_eq_true ‹_›) (by simp)
  | accept =>
    simp only [takeTurn]
    split
    · rename_i h
      unfold acceptTurn
      split
      · rename_i hr
        exact .word rfl h (by simpa [State.txValid] using hr)
      · exact .wait h (by simp_all [State.waiting, State.txValid])
    · exact .illegal (Bool.eq_false_of_not_eq_true ‹_›) (by simp)

/-- A step waits when no turn is left, and otherwise takes the first turn. -/
theorem step_cases (s : State) :
    (s.turns = [] ∧ step s = .next s) ∨
      (∃ t ts, s.turns = t :: ts ∧ TurnCase t { s with turns := ts } (step s)) := by
  unfold step nextStep
  split
  · exact .inl ⟨‹_›, rfl⟩
  · exact .inr ⟨_, _, ‹_›, takeTurn_cases _ _⟩

/-! ### The outcomes and the error classes, said through their conditions -/

/-- The two hangs of R254. -/
theorem State.hung_iff (s : State) :
    s.hung = true ↔
      (s.phase = .flushing ∧ ∀ t ∈ s.turns, t = .stream ∨ t = .dgram) ∨
      ((s.phase = .ready ∧ s.fstate ≠ .idle ∧ s.dgramIn ≠ []) ∧
        ∀ t ∈ s.turns, t = .dgram ∨ t = .accept ∨ (t = .stream ∧ s.streamIn = [])) := by
  simp [State.hung, State.hungFlush, State.hungDatagram]

/-- E_HUNT. -/
theorem State.hunt_mem_iff (s : State) (b : Byte) :
    .hunt ∈ s.streamErrors b ↔ s.fstate = .idle ∧ b ≠ 0#8 := by
  simp [State.streamErrors]

/-- E_TYPE_STREAM. -/
theorem State.typeStream_mem_iff (s : State) (b : Byte) :
    .typeStream ∈ s.streamErrors b ↔ s.fstate = .gotStart ∧ 4 ≤ b.toNat := by
  simp [State.streamErrors]

/-- E_GUARD. -/
theorem State.guard_mem_iff (s : State) (b : Byte) :
    .guard ∈ s.streamErrors b ↔ (s.frameByte b).2 = true ∧
      (s.frameByte b).1.idx = (s.frameByte b).1.cap ∧
      (s.frameByte b).1.idx ≠ (s.frameByte b).1.dlen.toNat := by
  simp [State.streamErrors]

/-- E_SHORTLEN, of a command that its DLEN ends (assumption log 21). -/
theorem State.shortLen_mem_iff (s : State) (b : Byte) :
    .shortLen ∈ s.streamErrors b ↔ (s.frameByte b).2 = true ∧
      (s.frameByte b).1.idx = (s.frameByte b).1.dlen.toNat ∧
      (s.frameByte b).1.idx < (s.frameByte b).1.formatNeeds := by
  simp [State.streamErrors]

/-- E_RANGE_CLAMP and E_RANGE_EMPTY, of a render command with a good header. -/
theorem State.range_mem_iff (s : State) :
    (.rangeClamp ∈ s.dispatchErrors ↔ s.cb 0 = 0#8 ∧ (s.cb 1 = 1#8 ∨ s.cb 1 = 2#8) ∧
      (s.count < (u16be (s.cb 9) (s.cb 10)).toNat ∨ s.count < (u16be (s.cb 11) (s.cb 12)).toNat)) ∧
    (.rangeEmpty ∈ s.dispatchErrors ↔ s.cb 0 = 0#8 ∧ (s.cb 1 = 1#8 ∨ s.cb 1 = 2#8) ∧
      s.clamp (u16be (s.cb 11) (s.cb 12)) ≤ s.clamp (u16be (s.cb 9) (s.cb 10))) := by
  have hlt : s.cb 1 = 1#8 ∨ s.cb 1 = 2#8 → ¬ 4 ≤ (s.cb 1).toNat := by
    rintro (h | h) <;> rw [h] <;> decide
  unfold State.dispatchErrors
  by_cases h0 : s.cb 0 = 0#8
  · by_cases hr : s.cb 1 = 1#8 ∨ s.cb 1 = 2#8
    · simp [h0, hr, hlt hr]
    · simp only [h0, hr]
      split <;> simp_all
  · simp [h0]

end Sys2Proof.Machine
end

