-- ==== Sys2Proof/Tests/Slice0.lean ====
section
/-!
SUPPORT. The model's own tests: ill-formed terms, decoding of words written out from the spec's
encodings, one step per instruction, and a witness for the premises of every statement that has any.
Expected values are those of `30_encoding.md` R91, `41_command_dispatch.md` and `95_test_vectors.md`.
-/
namespace Sys2Proof.Machine

/-- White as a correction profile: the identity (R182). -/
def plain : Rgb := ⟨255#8, 255#8, 255#8⟩

/-- The reset state with bytes at the front of the command buffer. -/
def withBuf (bs : List Byte) : State := { State.reset with buf := Memory.writeList [] 0 bs }

/-- A property of the next state of an outcome. -/
def answers (o : Host.Outcome State Fault Refusal) (p : State → Bool) : Bool :=
  match o with
  | .next t => p t
  | _ => false

/-! ### Well-formedness -/

theorem test_wf_refuses_extra_triple_rgb :
    Instr.wf (.rgb 16#16 plain 255#8 255#8 0#16 0#16 [⟨1#8, 2#8, 3#8⟩]) = false := by decide
theorem test_wf_refuses_extra_triple_hsv :
    Instr.wf (.hsv 16#16 plain 255#8 255#8 5#16 4#16 [⟨1#8, 2#8, 3#8⟩]) = false := by decide
theorem test_complete_refuses_missing_triple :
    Instr.complete (.rgb 13#16 plain 255#8 255#8 0#16 1#16 []) = false ∧
    Instr.complete (.hsv 13#16 plain 255#8 255#8 0#16 1#16 []) = false := by decide
theorem test_config_refuses_no_pixels : legalConfig { Config.example with n := 0#16 } = false := by decide
theorem test_config_refuses_shared_lanes :
    (legalConfig { Config.example with laneR := 2#2 } || legalConfig { Config.example with laneB := 1#2 } ||
      legalConfig { Config.example with laneW := 1#2 } || legalConfig { Config.example with laneB := 2#2 } ||
      legalConfig { Config.example with laneW := 2#2 } || legalConfig { Config.example with laneW := 0#2 }) =
      false := by decide

/-! ### Decoding, from R91 and R86 -/

theorem test_decode_cal : decode [0x00, 0x00, 0x00, 0x08, 0xFF, 0x80, 0x40, 0xC8] =
    .ok (.cal 8#16 ⟨255#8, 128#8, 64#8⟩ 200#8) := by decide
theorem test_decode_rgb : decode [0x00, 0x01, 0x00, 0x13, 0xFF, 0xFF, 0xFF, 0xFF, 0xFF, 0x00, 0x00, 0x00,
      0x02, 0xFF, 0x00, 0x00, 0x00, 0x00, 0xFF] =
    .ok (.rgb 19#16 plain 255#8 255#8 0#16 2#16 [⟨255#8, 0#8, 0#8⟩, ⟨0#8, 0#8, 255#8⟩]) := by decide
theorem test_decode_hsv : decode [0x00, 0x02, 0x00, 0x10, 0xFF, 0xFF, 0xFF, 0xFF, 0xFF, 0x00, 0x0A, 0x00,
      0x0B, 0x20, 0xFF, 0xFF] =
    .ok (.hsv 16#16 plain 255#8 255#8 10#16 11#16 [⟨32#8, 255#8, 255#8⟩]) := by decide
theorem test_decode_write : decode [0x00, 0x03, 0x00, 0x04] = .ok (.write 4#16) := by decide
theorem test_decode_bad_marker : decode [0x01, 0x02] = .error (.badMark 1#8) := by decide
theorem test_decode_bad_type : decode [0x00, 0x04, 0x00, 0x04] = .error (.badType 4#8) := by decide
theorem test_table_words :
    decodeTableWord 32 0x00000000 = some (.cal 0#16 ⟨0#8, 0#8, 0#8⟩ 0#8) ∧
    decodeTableWord 32 0x00010000 = some (.rgb 0#16 ⟨0#8, 0#8, 0#8⟩ 0#8 0#8 0#16 0#16 []) ∧
    decodeTableWord 32 0x00020000 = some (.hsv 0#16 ⟨0#8, 0#8, 0#8⟩ 0#8 0#8 0#16 0#16 []) ∧
    decodeTableWord 32 0x00030000 = some (.write 0#16) ∧
    decodeTableWord 32 0x00040000 = none := by decide
theorem test_packet_of_write : packet (.write 0#16) = some [0x00, 0x03, 0x00, 0x04] := by decide

/-! ### Colors, lanes and the configuration vector -/

theorem test_desat_d8_d9 : desat false ⟨200#8, 100#8, 50#8⟩ 200#8 = ⟨181#8, 103#8, 64#8, 0#8⟩ ∧
    desat true ⟨200#8, 100#8, 50#8⟩ 200#8 = ⟨117#8, 39#8, 0#8, 64#8⟩ := by decide
theorem test_hsvx_x18 : hsvx RainbowTable.default true ⟨200#8, 150#8, 100#8⟩ 200#8 180#8 64#8 128#8 200#8 =
    ⟨21#8, 16#8, 0#8, 29#8⟩ := by decide
theorem test_rgbx_x3 : rgbx true plain 200#8 128#8 ⟨200#8, 100#8, 50#8⟩ = ⟨58#8, 19#8, 0#8, 32#8⟩ := by decide
theorem test_rainbow_255 : rainbow RainbowTable.default 255#8 = ⟨252#8, 0#8, 3#8⟩ := by decide
theorem test_vsq : (vsq 0#8, vsq 15#8, vsq 22#8, vsq 23#8, vsq 200#8) = (0#8, 1#8, 1#8, 2#8, 156#8) := by decide
theorem test_named_wire_orders :
    pack (withWireOrder Config.example [.green, .red, .blue]) ⟨1#8, 2#8, 3#8, 4#8⟩ = 0x04020103#32 ∧
    pack (withWireOrder Config.example [.green, .red, .blue, .white]) ⟨1#8, 2#8, 3#8, 4#8⟩ = 0x02010304#32 := by
  decide
/-- CFG of program P1 (N = 4, RGB, GRB): LANE_W 3, LANE_R 1, LANE_G 2, LANE_B 0. -/
theorem test_sample_config : sampleConfig 0x01B00004#32 = Config.example := by decide
theorem test_framer_codes : [FState.idle, .gotStart, .gotType, .gotLenHi, .collecting].map FState.code =
    [0, 1, 2, 3, 4] := by decide

/-! ### One step per instruction -/

/-- R143: `CAL 255,128,64,200` packs to 0x0064C832 with GRB lanes. -/
theorem test_exec_cal : answers (exec (.cal 8#16 ⟨255#8, 128#8, 64#8⟩ 200#8) State.reset) (fun t =>
    decide (t.fbWord 0 = 0x0064C832#32 ∧ t.fbWord 3 = 0x0064C832#32 ∧ t.phase = .flushing)) = true := by decide
/-- R146: red in lane 1, blue in lane 0, nothing transmitted. -/
theorem test_exec_rgb : answers (exec (.rgb 19#16 plain 255#8 255#8 0#16 2#16
      [⟨255#8, 0#8, 0#8⟩, ⟨0#8, 0#8, 255#8⟩]) State.reset) (fun t =>
    decide (t.fbWord 0 = 0x0000FF00#32 ∧ t.fbWord 1 = 0x000000FF#32 ∧ t.phase = .ready)) = true := by decide
/-- Program P3: a command cut short reads its triples from stale bytes (R55, R152). -/
theorem test_exec_rgb_stale : answers (exec (.rgb 13#16 ⟨255#8, 0#8, 255#8⟩ 255#8 255#8 0#16 2#16 [])
      (withBuf [0, 1, 0, 13, 255, 0, 255, 255, 255, 0, 0, 0, 2, 1, 2, 3, 4, 5, 6])) (fun t =>
    decide (t.fbWord 0 = 0x00000103#32 ∧ t.fbWord 1 = 0x00000406#32)) = true := by decide
/-- R149: hue 32 gives pack(171, 85, 0, 0) = 0x0055AB00. -/
theorem test_exec_hsv : answers (exec (.hsv 16#16 plain 255#8 255#8 3#16 200#16
      [⟨32#8, 255#8, 255#8⟩]) State.reset) (fun t =>
    decide (t.fbWord 3 = 0x0055AB00#32 ∧ t.fbWord 4 = 0#32 ∧ t.phase = .ready)) = true := by decide
theorem test_exec_write : answers (exec (.write 4#16) State.reset) (fun t =>
    decide (t.phase = .flushing ∧ t.fptr = 0)) = true := by decide

/-! ### The first instruction after reset -/

theorem test_fetch_cal : answers (step (State.reset.withFetchWord 32 0x00000000)) (fun t =>
    decide (t.phase = .flushing ∧ t.turns = [] ∧ t.dgramIn = [])) = true := by decide
theorem test_fetch_rgb : answers (step (State.reset.withFetchWord 32 0x00010000)) (fun t =>
    decide (t.cb 1 = 1#8 ∧ t.phase = .ready ∧ t.dgramIn = [])) = true := by decide
theorem test_fetch_hsv : answers (step (State.reset.withFetchWord 32 0x00020000)) (fun t =>
    decide (t.cb 1 = 2#8 ∧ t.phase = .ready ∧ t.dgramIn = [])) = true := by decide
theorem test_fetch_write : answers (step (State.reset.withFetchWord 32 0x00030000)) (fun t =>
    decide (t.cb 1 = 3#8 ∧ t.phase = .flushing ∧ t.dgramIn = [])) = true := by decide

/-! ### Framer, datagrams, reset, error classes -/

/-- T-F1, last byte: `00 03 00 04` dispatches WRITE. -/
theorem test_stream_write_completes : answers (takeStreamByte 4#8
      { withBuf [0, 3] with fstate := .gotLenHi, idx := 3, ctype := 3#2 }) (fun t =>
    decide (t.fstate = .idle ∧ t.idx = 4 ∧ t.dlen = 4#16 ∧ t.phase = .flushing)) = true := by decide
/-- T-F5: with DLEN 3 the command completes at CAP, here the 76th byte of N = 4. -/
theorem test_stream_guard : answers (takeStreamByte 9#8
      { withBuf [0, 0, 0, 3] with fstate := .collecting, idx := 75, dlen := 3#16 }) (fun t =>
    decide (t.fstate = .idle ∧ t.idx = 76 ∧ t.phase = .flushing)) = true := by decide
/-- T-R8: an empty datagram right after reset is a black Calibration. -/
theorem test_empty_datagram : answers (takeDatagram [] State.reset) (fun t =>
    decide (t.phase = .flushing ∧ t.fbWord 0 = 0#32)) = true := by decide
/-- T-R6: datagram `01 02` is ignored and stored. -/
theorem test_bad_marker_datagram : answers (takeDatagram [1, 2] State.reset) (fun t =>
    decide (t.phase = .ready ∧ t.cb 0 = 1#8 ∧ t.cb 1 = 2#8)) = true := by decide
theorem test_reset_illegal : (match step { State.reset with turns := [.reset 0x01B00000#32] } with
    | .refused r => decide (r = .illegalConfig)
    | _ => false) = true := by decide
theorem test_stream_error_classes :
    State.reset.streamErrors 5#8 = [.hunt] ∧
    State.streamErrors { State.reset with fstate := .gotStart } 4#8 = [.typeStream] ∧
    State.streamErrors { State.reset with fstate := .collecting, idx := 75, dlen := 3#16 } 9#8 = [.guard] ∧
    State.streamErrors { State.reset with fstate := .collecting, idx := 4, dlen := 5#16 } 9#8 = [.shortLen] := by
  decide
/-- T-F6: the 13th byte completes a render of the LEDs 0 and 1 whose DLEN of 13 cuts its triples. With
an empty range 13 bytes are all it needs. -/
theorem test_short_render :
    State.streamErrors { withBuf [0, 1, 0, 13] with fstate := .collecting, idx := 12, dlen := 13#16 } 2#8 =
      [.shortLen] ∧
    State.streamErrors { withBuf [0, 1, 0, 13] with fstate := .collecting, idx := 12, dlen := 13#16 } 0#8 =
      [] := by decide
theorem test_dispatch_error_classes :
    (withBuf [1]).dispatchErrors = [.markDgram] ∧ (withBuf [0, 4]).dispatchErrors = [.typeDgram] ∧
    (withBuf [0, 1, 0, 13, 0, 0, 0, 0, 0, 0, 0, 0, 200]).dispatchErrors = [.rangeClamp] ∧
    (withBuf [0, 2, 0, 13, 0, 0, 0, 0, 0, 0, 4, 255, 255]).dispatchErrors = [.rangeClamp, .rangeEmpty] ∧
    State.reset.datagramErrors (List.replicate 77 0#8) = [.dgramTrunc] := by decide

/-! ### Witnesses: the premises of the statements can be met, clause by clause -/

theorem witness_DecodeEncodeRoundTrip :
    Instr.wf (.cal 65535#16 plain 0#8) = true ∧ Instr.wf (.write 0#16) = true ∧
    Instr.wf (.rgb 16#16 plain 0#8 255#8 0#16 1#16 [⟨1#8, 2#8, 3#8⟩]) = true ∧
    Instr.wf (.hsv 13#16 plain 0#8 255#8 65535#16 0#16 []) = true := by decide
theorem witness_TrailingBytesAreIgnored :
    Instr.complete (.cal 8#16 plain 0#8) = true ∧ Instr.complete (.write 4#16) = true ∧
    Instr.complete (.rgb 16#16 plain 0#8 255#8 65534#16 65535#16 [⟨1#8, 2#8, 3#8⟩]) = true ∧
    Instr.complete (.hsv 13#16 plain 0#8 255#8 7#16 7#16 []) = true := by decide
theorem witness_HeaderWordSelectsCommand :
    9 ≤ (List.replicate 9 0#8).length ∧
    headerWord 0#8 0#8 255#8 255#8 &&& 0xFFFF0000#32 = 0x00000000#32 ∧
    headerWord 0#8 1#8 255#8 255#8 &&& 0xFFFF0000#32 = 0x00010000#32 ∧
    headerWord 0#8 2#8 255#8 255#8 &&& 0xFFFF0000#32 = 0x00020000#32 ∧
    headerWord 0#8 3#8 255#8 255#8 &&& 0xFFFF0000#32 = 0x00030000#32 ∧
    0x00040000#32 ≤ headerWord 0#8 4#8 0#8 0#8 &&& 0xFFFF0000#32 ∧
    0x00040000#32 ≤ headerWord 1#8 0#8 0#8 0#8 &&& 0xFFFF0000#32 := by decide
theorem witness_RenderFieldsAtTheirOffsets :
    let rgbBytes : List Byte := [0, 1, 0, 16, 1, 2, 3, 4, 5, 0, 0, 0, 2, 7, 8, 9]
    let hsvBytes : List Byte := [0, 2, 0, 13, 1, 2, 3, 4, 5, 0, 0, 0, 0]
    13 ≤ rgbBytes.length ∧ rgbBytes.getD 0 0#8 = 0#8 ∧ rgbBytes.getD 1 0#8 = 1#8 ∧
    13 ≤ hsvBytes.length ∧ hsvBytes.getD 0 0#8 = 0#8 ∧ hsvBytes.getD 1 0#8 = 2#8 := by decide
theorem witness_ScaleLaws :
    (254#8 : Byte).toNat ≤ (255#8 : Byte).toNat ∧ (0#8 : Byte).toNat ≤ (0#8 : Byte).toNat := by decide
theorem witness_RainbowInterpolatesExactly : (224#8 : Byte).toNat % 32 = 0 := by decide
theorem witness_ValueSquaring :
    (15#8 : Byte).toNat ≤ (16#8 : Byte).toNat ∧ (0#8 : Byte).toNat ≤ (1#8 : Byte).toNat := by decide
theorem witness_DesatCases :
    (254#8 : Byte) ≠ 255#8 ∧ (254#8 : Byte) ≠ 0#8 ∧ (1#8 : Byte) ≠ 255#8 ∧ (1#8 : Byte) ≠ 0#8 := by decide
theorem witness_BlendNeverOverflows : plain.r = plain.g ∧ plain.g = plain.b := by decide
theorem witness_ZeroSaturationIgnoresColor :
    (1#8 : Byte).toNat * (254#8 : Byte).toNat < 255 ∧ (0#8 : Byte).toNat * (255#8 : Byte).toNat < 255 := by decide
theorem witness_PackPlacesEachChannel : legalConfig Config.example = true := by decide
theorem witness_CommandsNeedCanonicalFrameBuffer :
    State.reset.fb.wf ∧ Memory.wf ([(0, 1#32), (3, 2#32)] : Memory 32) := by decide
theorem witness_EmptyRangeIsNoOp :
    min (5#16 : BitVec 16).toNat State.reset.count ≤ min (10#16 : BitVec 16).toNat State.reset.count ∧
    min (65535#16 : BitVec 16).toNat State.reset.count ≤ min (4#16 : BitVec 16).toNat State.reset.count := by decide
theorem witness_DispatchDropsBadHeaders :
    (withBuf [255]).cb 0 ≠ 0#8 ∧ 4 ≤ ((withBuf [0, 4]).cb 1).toNat := by decide
theorem witness_DispatchReadsCalAndWrite :
    (withBuf [0, 0]).cb 0 = 0#8 ∧ (withBuf [0, 0]).cb 1 = 0#8 ∧
    (withBuf [0, 3]).cb 0 = 0#8 ∧ (withBuf [0, 3]).cb 1 = 3#8 := by decide
theorem witness_DispatchedRender :
    (withBuf [0, 1]).fb.wf ∧ (withBuf [0, 1]).cb 0 = 0#8 ∧ (withBuf [0, 1]).cb 1 = 1#8 ∧
    (withBuf [0, 2]).fb.wf ∧ (withBuf [0, 2]).cb 0 = 0#8 ∧ (withBuf [0, 2]).cb 1 = 2#8 := by decide
theorem witness_IdleDropsOtherBytes : State.reset.fstate = .idle ∧ (1#8 : Byte) ≠ 0#8 := by decide
theorem witness_MarkerAndTypeAreStored :
    let s : State := { State.reset with fstate := .gotStart, idx := 1 }
    (State.reset.buf.wf ∧ State.reset.fstate = .idle ∧ (0#8 : Byte) = 0#8) ∧
    (s.buf.wf ∧ s.fstate = .gotStart ∧ (3#8 : Byte).toNat < 4 ∧ 4 ≤ (4#8 : Byte).toNat) := by decide
theorem witness_GotTypeTakesLengthHigh :
    let s : State := { State.reset with fstate := .gotType, idx := 2 }
    s.fstate = .gotType ∧ s.buf.wf := by decide
theorem witness_GotLenHiTakesLengthLow :
    let s : State := { State.reset with fstate := .gotLenHi, idx := 3 }
    s.fstate = .gotLenHi ∧ s.buf.wf := by decide
theorem witness_CollectingStoresPayload :
    let s : State := { State.reset with fstate := .collecting, idx := 75 }
    s.fstate = .collecting ∧ s.idx < s.cap ∧ s.buf.wf ∧ s.idx + 1 = s.cap := by decide
theorem witness_DatagramIsCopiedAndDispatched : (withBuf [0, 3]).buf.wf := by decide
theorem witness_EmptyDatagramRepeatsCommand :
    (withBuf [0, 3]).cb 0 = 0#8 ∧ (withBuf [0, 3]).cb 1 = 3#8 := by decide
theorem witness_StreamTurnNeedsReady :
    let s : State := { State.reset with streamIn := [0], turns := [.stream] }
    legalConfig s.cfg = true ∧ s.turns = .stream :: [] ∧ s.streamIn = 0#8 :: [] ∧ s.phase = .ready ∧
    { s with streamIn := [] }.streamIn = [] ∧ { s with phase := .flushing }.phase = .flushing := by decide
theorem witness_DatagramTurnNeedsIdle :
    let s : State := { State.reset with dgramIn := [[0]], turns := [.dgram] }
    legalConfig s.cfg = true ∧ s.turns = .dgram :: [] ∧ s.dgramIn = [0#8] :: [] ∧ s.phase = .ready ∧
    s.fstate = .idle ∧ { s with dgramIn := [] }.dgramIn = [] ∧ { s with phase := .flushing }.phase = .flushing ∧
    { s with fstate := .gotStart }.fstate ≠ .idle := by decide
theorem witness_StepRunsDecodedCommand_datagram :
    let s : State := { State.reset with dgramIn := [[0, 3]], turns := [.dgram] }
    legalConfig s.cfg = true ∧ s.turns = .dgram :: [] ∧ s.dgramIn = [0#8, 3#8] :: [] ∧ s.phase = .ready ∧
    s.fstate = .idle ∧
    decode (State.cbBytes { s with turns := [], dgramIn := [], buf := s.buf.writeList 0 ([0#8, 3#8].take s.cap) }) =
      .ok (.write 0#16) := by decide
theorem witness_StepRunsDecodedCommand_collecting :
    let s : State := { withBuf [0, 3, 0, 5] with
      fstate := .collecting, idx := 4, dlen := 5#16, ctype := 3#2, streamIn := [7], turns := [.stream] }
    legalConfig s.cfg = true ∧ s.turns = .stream :: [] ∧ s.streamIn = 7#8 :: [] ∧ s.phase = .ready ∧
    s.fstate = .collecting ∧ s.idx < s.cap ∧ (s.idx + 1 = s.dlen.toNat ∨ s.idx + 1 = s.cap) ∧
    decode (State.cbBytes { s with turns := [], streamIn := [], buf := s.buf.write s.idx 7#8, idx := s.idx + 1, fstate := .idle }) =
      .ok (.write 5#16) := by decide
theorem witness_StepRunsDecodedCommand_lengthLow :
    let s : State := { withBuf [0, 3] with
      fstate := .gotLenHi, idx := 3, ctype := 3#2, streamIn := [4], turns := [.stream] }
    legalConfig s.cfg = true ∧ s.turns = .stream :: [] ∧ s.streamIn = 4#8 :: [] ∧ s.phase = .ready ∧
    s.fstate = .gotLenHi ∧ s.dlen ||| (4#8 : Byte).setWidth 16 = 4#16 ∧
    decode (State.cbBytes { s with turns := [], streamIn := [], buf := s.buf.write 3 4#8, idx := 4, dlen := 4#16, fstate := .idle }) =
      .ok (.write 4#16) := by decide
theorem witness_FlushStepSendsOneWord :
    let s : State := { State.reset with phase := .flushing, fptr := 3, turns := [.accept] }
    legalConfig s.cfg = true ∧ s.turns = .accept :: [] ∧ s.phase = .flushing ∧ s.fptr < s.count ∧
    s.fptr + 1 = s.count := by decide
theorem witness_FlushSendsWholeFrameBuffer :
    let ts : List Turn := [.accept, .stream, .accept, .dgram, .accept]
    let s : State := { State.reset with phase := .flushing, turns := ts ++ .accept :: [.stream] }
    legalConfig s.cfg = true ∧ s.phase = .flushing ∧ s.fptr = 0 ∧
    (∀ t ∈ ts, t = .stream ∨ t = .dgram ∨ t = .accept) ∧ ts.count .accept + 1 = s.count ∧
    s.turns = ts ++ .accept :: [.stream] := by decide
theorem witness_FlushWaitsForAcceptance :
    let ts : List Turn := [.stream, .dgram]
    let s : State := { State.reset with phase := .flushing, turns := ts ++ [.accept] }
    legalConfig s.cfg = true ∧ s.phase = .flushing ∧ (∀ t ∈ ts, t = .stream ∨ t = .dgram) ∧
    s.turns = ts ++ [.accept] := by decide
theorem witness_CalibrationFlushIsUniform :
    let s : State := { State.reset with turns := List.replicate 4 .accept ++ [] }
    legalConfig s.cfg = true ∧ s.fb.wf ∧ s.turns = List.replicate s.count .accept ++ [] := by decide
theorem witness_StreamedCommandRuns :
    let i : Instr := .rgb 16#16 plain 255#8 255#8 0#16 1#16 [⟨1#8, 2#8, 3#8⟩]
    let s : State := { State.reset with streamIn := encode i ++ [9], turns := List.replicate 16 .stream ++ [.accept] }
    legalConfig s.cfg = true ∧ s.buf.wf ∧ i.complete = true ∧ i.declared.toNat = (encode i).length ∧
    (encode i).length ≤ s.cap ∧ s.phase = .ready ∧ s.fstate = .idle ∧ s.streamIn = encode i ++ [9] ∧
    s.turns = List.replicate (encode i).length .stream ++ [.accept] := by decide
theorem witness_DatagramCommandRuns :
    State.reset.buf.wf ∧ Instr.complete (.write 4#16) = true ∧ (encode (.write 4#16)).length ≤ State.reset.cap := by
  decide
theorem witness_ResetFromAnyState :
    let s : State := { State.reset with phase := .flushing, turns := [.reset 0x01B00001#32] }
    s.turns = .reset 0x01B00001#32 :: [] ∧ legalConfig (sampleConfig 0x01B00001#32) = true ∧
    legalConfig (sampleConfig 0x00000001#32) = false := by decide
theorem witness_IllegalConfigIsRefused :
    let s : State := { State.reset with cfg := { Config.example with n := 0#16 }, turns := [.accept] }
    legalConfig s.cfg = false ∧ s.turns ≠ [] ∧ s.resetNext = false := by decide
theorem witness_WaitingHoldsAllState :
    legalConfig State.reset.cfg = true ∧ State.reset.waiting = true ∧
    State.waiting { State.reset with turns := [.stream] } = true ∧
    State.waiting { State.reset with turns := [.dgram], dgramIn := [[]], fstate := .gotType } = true ∧
    State.waiting { State.reset with turns := [.accept] } = true := by decide
theorem witness_QuiescentStaysQuiescent :
    State.reset.quiescent = true ∧ State.reset.resetNext = false ∧
    answers (step State.reset) (fun t => decide (t = State.reset)) = true := by decide
theorem witness_HangIsKept :
    legalConfig State.reset.cfg = true ∧
    State.hung { State.reset with phase := .flushing, turns := [.stream, .dgram] } = true ∧
    State.hung { State.reset with fstate := .gotType, idx := 2, dgramIn := [[]], turns := [.dgram, .stream, .accept] } =
      true := by decide
/-- A further stream byte, or a reset, may still free the datagram: no hang (R283). -/
theorem test_no_hang_while_bytes_come :
    State.hung { State.reset with fstate := .gotType, dgramIn := [[]], streamIn := [0], turns := [.stream] } = false ∧
    State.hung { State.reset with fstate := .gotType, dgramIn := [[]], turns := [.reset 0#32] } = false := by decide
theorem witness_ErrorClassesAreAbsorbed :
    .hunt ∈ State.reset.streamErrors 255#8 ∧
    .typeStream ∈ State.streamErrors { State.reset with fstate := .gotStart } 4#8 ∧
    (75 < State.reset.cap ∧ State.reset.buf.wf ∧ .guard ∈ State.streamErrors { State.reset with fstate := .collecting, idx := 75, dlen := 3#16 } 9#8) ∧
    .shortLen ∈ State.streamErrors { State.reset with fstate := .collecting, idx := 4, dlen := 5#16 } 9#8 ∧
    .markDgram ∈ (withBuf [1]).dispatchErrors ∧ .typeDgram ∈ (withBuf [0, 4]).dispatchErrors ∧
    .rangeEmpty ∈ (withBuf [0, 1]).dispatchErrors ∧
    ((withBuf [0, 1, 0, 13, 0, 0, 0, 0, 0, 0, 0, 0, 5]).fb.wf ∧
      .rangeClamp ∈ (withBuf [0, 1, 0, 13, 0, 0, 0, 0, 0, 0, 0, 0, 5]).dispatchErrors) ∧
    .rangeClamp ∈ (withBuf [0, 2, 0, 13, 0, 0, 0, 0, 0, 0, 5, 0, 0]).dispatchErrors ∧
    .dgramTrunc ∈ State.reset.datagramErrors (List.replicate 77 0#8) := by decide
theorem witness_Inv : State.reset.Inv ∧ State.reset.whiteDark ∧
    answers (step State.reset) (fun t => decide (t = State.reset)) = true ∧ State.reset.resetNext = false :=
  ⟨⟨by decide, by decide, by decide, by decide, trivial, fun _ => rfl, fun h => absurd h (by decide)⟩,
    fun _ _ => by change laneByte 3#2 0#32 = 0#8; decide, by decide, by decide⟩
theorem witness_StepNeverFaults_refusal :
    let s : State := { State.reset with turns := [.reset 0#32] }
    s.turns = .reset 0#32 :: [] ∧ legalConfig (sampleConfig 0#32) = false := by decide
theorem witness_OnlyAcceptSendsWords :
    let s : State := { State.reset with phase := .flushing, turns := [.accept] }
    s.resetNext = false ∧ s.phase = .flushing ∧ answers (step s) (fun t => decide (t.txOut = [0#32])) = true := by decide
theorem witness_FlushLeavesBuffersAlone :
    let s : State := { State.reset with phase := .flushing, turns := [.stream], streamIn := [0] }
    s.phase = .flushing ∧ s.resetNext = false ∧ answers (step s) (fun t => decide (t.streamIn = [0#8])) = true := by decide
theorem witness_CtypeIsUnobservable :
    answers (step { State.reset with turns := [.accept] }) (fun t => decide (t.ctype = 0#2)) = true := by decide

end Sys2Proof.Machine
end

section
/-!
Selection by the header word (`30_encoding.md` R86). The masked word is the header word with DLEN
cleared, so it fixes MARK and TYPE; nine bytes after the header fill the fixed fields of every format.
-/
namespace Sys2Proof

theorem headerWord_and (a0 a1 a2 a3 b0 b1 b2 b3 : Byte) :
    headerWord a0 a1 a2 a3 &&& headerWord b0 b1 b2 b3 =
      headerWord (a0 &&& b0) (a1 &&& b1) (a2 &&& b2) (a3 &&& b3) := by
  have h : (a0 ++ a1 ++ a2 ++ a3 : BitVec (8 + 8 + 8 + 8)) &&& (b0 ++ b1 ++ b2 ++ b3) =
      (a0 &&& b0) ++ (a1 &&& b1) ++ (a2 &&& b2) ++ (a3 &&& b3) := by
    simp only [BitVec.and_append]
  exact h

/-- The mask of R86 clears the two DLEN bytes and leaves MARK and TYPE. -/
theorem headerWord_and_mask (b0 b1 b2 b3 : Byte) :
    headerWord b0 b1 b2 b3 &&& 0xFFFF0000#32 = headerWord b0 b1 0#8 0#8 := by
  have mask_eq : 0xFFFF0000#32 = headerWord 0xFF#8 0xFF#8 0#8 0#8 := by decide
  have and_ones (b : Byte) : b &&& 0xFF#8 = b := BitVec.and_allOnes
  rw [mask_eq, headerWord_and, and_ones, and_ones, BitVec.and_zero, BitVec.and_zero]

theorem headerWord_and_mask_toNat (b0 b1 b2 b3 : Byte) :
    (headerWord b0 b1 b2 b3 &&& 0xFFFF0000#32).toNat = b0.toNat * 2 ^ 24 + b1.toNat * 2 ^ 16 := by
  rw [headerWord_and_mask, headerWord_toNat]
  simp

/-- A masked word `0x00tt0000` has MARK 0x00 and TYPE `tt`. -/
theorem mark_type_of_masked {b0 b1 b2 b3 type : Byte}
    (h : headerWord b0 b1 b2 b3 &&& 0xFFFF0000#32 = headerWord 0#8 type 0#8 0#8) :
    b0 = 0#8 ∧ b1 = type := by
  have hNat := congrArg BitVec.toNat h
  rw [headerWord_and_mask_toNat, headerWord_toNat] at hNat
  constructor <;> bv_omega

theorem four_le_type_of_masked {b1 b2 b3 : Byte}
    (h : 0x00040000#32 ≤ headerWord 0#8 b1 b2 b3 &&& 0xFFFF0000#32) : 4 ≤ b1.toNat := by
  have hNat := BitVec.le_def.1 h
  rw [headerWord_and_mask_toNat] at hNat
  simp only [BitVec.toNat_ofNat] at hNat
  omega

theorem decode_mark_zero (type : Byte) (rest : List Byte) :
    decode (0#8 :: type :: rest) = decodeType type rest := rfl

theorem decode_of_mark_ne {mark : Byte} (type : Byte) (rest : List Byte) (h : mark ≠ 0#8) :
    decode (mark :: type :: rest) = .error (.badMark mark) := if_neg h

theorem decodeType_of_four_le {type : Byte} (rest : List Byte) (h : 4 ≤ type.toNat) :
    decodeType type rest = .error (.badType type) := by
  obtain ⟨n, hn⟩ := Nat.exists_eq_add_of_le' h
  rw [decodeType, hn]
  rfl

theorem decodeCal_of_length (l1 l0 : Byte) {rest : List Byte} (h : 4 ≤ rest.length) :
    ∃ corr bright, decodeCal (l1 :: l0 :: rest) = .ok (.cal (u16be l1 l0) corr bright) :=
  match rest, h with
  | _ :: _ :: _ :: _ :: _, _ => ⟨_, _, rfl⟩

theorem decodeRender_of_length
    (mk : BitVec 16 → Rgb → Byte → Byte → BitVec 16 → BitVec 16 → List Triple → Instr)
    (l1 l0 : Byte) {rest : List Byte} (h : 9 ≤ rest.length) :
    ∃ corr sat bright start stop px,
      decodeRender mk (l1 :: l0 :: rest) = .ok (mk (u16be l1 l0) corr sat bright start stop px) :=
  match rest, h with
  | _ :: _ :: _ :: _ :: _ :: _ :: _ :: _ :: _ :: _, _ => ⟨_, _, _, _, _, _, rfl⟩

/-- Settles O5: the masked header word fixes MARK and TYPE, and `decode` selects by these alone. -/
theorem headerWordSelectsCommand : Obligations.HeaderWordSelectsCommand := by
  unfold Obligations.HeaderWordSelectsCommand
  intro b0 b1 b2 b3 rest hLen
  refine ⟨fun hCal => ?_, fun hRgb => ?_, fun hHsv => ?_, fun hWrite => ?_, fun hOther => ?_⟩
  · obtain ⟨rfl, rfl⟩ := mark_type_of_masked (type := 0#8) hCal
    exact decodeCal_of_length b2 b3 (by omega)
  · obtain ⟨rfl, rfl⟩ := mark_type_of_masked (type := 1#8) hRgb
    exact decodeRender_of_length .rgb b2 b3 hLen
  · obtain ⟨rfl, rfl⟩ := mark_type_of_masked (type := 2#8) hHsv
    exact decodeRender_of_length .hsv b2 b3 hLen
  · obtain ⟨rfl, rfl⟩ := mark_type_of_masked (type := 3#8) hWrite
    rfl
  · by_cases hMark : b0 = 0#8
    · subst hMark
      exact ⟨_, by rw [decode_mark_zero, decodeType_of_four_le _ (four_le_type_of_masked hOther)]⟩
    · exact ⟨_, decode_of_mark_ne b1 _ hMark⟩

end Sys2Proof
end

section
/-!
The framer in Idle (`40_packet_framer.md` R110, R111). A byte taken in Idle is never a payload byte and
never completes a command, so StreamByte neither faults nor dispatches: only `byteIdle` acts.
-/
namespace Sys2Proof.Machine

theorem State.frameByte_of_idle {s : State} (hIdle : s.fstate = .idle) (b : Byte) :
    s.frameByte b = (s.byteIdle b, false) := by
  rw [State.frameByte, hIdle]

theorem State.byteIdle_of_ne (s : State) {b : Byte} (hb : b ≠ 0#8) : s.byteIdle b = s := if_neg hb

theorem takeStreamByte_of_idle {s : State} (hIdle : s.fstate = .idle) (b : Byte) :
    takeStreamByte b s = .next (s.byteIdle b) := by
  have hNoFault : ¬(s.fstate = .collecting ∧ s.cap ≤ s.idx) := by simp [hIdle]
  rw [takeStreamByte, if_neg hNoFault, State.frameByte_of_idle hIdle]
  rfl

/-- Settles O31: in Idle only `byteIdle` acts, and it keeps the state on every byte but the marker. -/
theorem idleDropsOtherBytes : Obligations.IdleDropsOtherBytes := by
  unfold Obligations.IdleDropsOtherBytes
  intro s b hIdle hb
  rw [takeStreamByte_of_idle hIdle, State.byteIdle_of_ne s hb]

end Sys2Proof.Machine
end

section
/-!
Render commands as the dispatcher reads them (`41_command_dispatch.md` R142, R144). Every triple the
decoder takes from the buffer is the buffer's own triple of that pixel, so a render command decoded
from the buffer reads its pixels from the buffer at offset 13 on.
-/
namespace Sys2Proof

/-- Triple k taken from a payload is the bytes 3k, 3k+1, 3k+2 (R83). -/
theorem getElem?_of_takeTriples {n k : Nat} {bs : List Byte} {p : Triple}
    (h : (takeTriples n bs)[k]? = some p) :
    bs[3 * k]? = some p.p0 ∧ bs[3 * k + 1]? = some p.p1 ∧ bs[3 * k + 2]? = some p.p2 := by
  induction n, bs using takeTriples.induct generalizing k with
  | case1 n p0 p1 p2 rest ih =>
    cases k with
    | zero =>
      obtain rfl : ⟨p0, p1, p2⟩ = p := Option.some.inj h
      exact ⟨rfl, rfl, rfl⟩
    | succ k => exact ih h
  | case2 n bs hShort => simp [takeTriples] at h

end Sys2Proof

namespace Sys2Proof.Machine

/-- The triples the decoder takes from the buffer for a render command of that range (R83, R144). -/
def State.cbTriples (s : State) (start stop : BitVec 16) : List Triple :=
  takeTriples (stop.toNat - start.toNat) (s.cbBytes.drop 13)

theorem State.cb_of_getElem?_cbBytes {s : State} {k : Nat} {b : Byte}
    (h : s.cbBytes[k]? = some b) : s.cb k = b := by
  obtain ⟨_, hb⟩ := List.getElem?_eq_some_iff.1 h
  simpa [State.cbBytes] using hb

/-- The buffer has at least 67 bytes (R7), so the fixed fields of every format stand in it. -/
theorem State.cbBytes_eq_fields (s : State) :
    s.cbBytes = s.cb 0 :: s.cb 1 :: s.cb 2 :: s.cb 3 :: s.cb 4 :: s.cb 5 :: s.cb 6 :: s.cb 7 ::
      s.cb 8 :: s.cb 9 :: s.cb 10 :: s.cb 11 :: s.cb 12 :: s.cbBytes.drop 13 := by
  have hTake : s.cbBytes.take 13 = (List.range 13).map s.cb := by
    rw [State.cbBytes, ← List.map_take, List.take_range, Nat.min_eq_left (by rw [s.cap_eq]; omega)]
  calc s.cbBytes = s.cbBytes.take 13 ++ s.cbBytes.drop 13 := (List.take_append_drop 13 _).symm
    _ = (List.range 13).map s.cb ++ s.cbBytes.drop 13 := by rw [hTake]

/-- A pixel of a command decoded from the buffer is the buffer's triple, whether or not the decoder
reached it. -/
theorem State.pixel_cbTriples (s : State) (start stop : BitVec 16) (k : Nat) :
    s.pixel (s.cbTriples start stop) k = s.cbTriple k := by
  rw [State.pixel]
  cases hp : (s.cbTriples start stop)[k]? with
  | none => rfl
  | some p =>
    obtain ⟨h0, h1, h2⟩ := getElem?_of_takeTriples hp
    rw [List.getElem?_drop] at h0 h1 h2
    rw [Option.getD_some, State.cbTriple, tripleOffset, Nat.add_assoc, Nat.add_assoc,
      State.cb_of_getElem?_cbBytes h0, State.cb_of_getElem?_cbBytes h1,
      State.cb_of_getElem?_cbBytes h2]

/-- The render loop on a command decoded from the buffer (R145). -/
theorem State.fbWord_render_cbTriples {s : State} (h : s.fb.wf) (start stop : BitVec 16)
    (color : Triple → Rgbw) (i : Nat) :
    (s.render start stop (s.cbTriples start stop) color).fbWord i =
      if min start.toNat s.count ≤ i ∧ i < min stop.toNat s.count then
        let o := (i - min start.toNat s.count) * 3 + 13
        pack s.cfg (color ⟨s.cb o, s.cb (o + 1), s.cb (o + 2)⟩)
      else s.fbWord i := by
  rw [State.fbWord_render h, State.pixel_cbTriples, State.cbTriple, tripleOffset, Nat.add_comm 13,
    Nat.mul_comm 3]
  rfl

/-- A buffer whose type selects a render format holds that command, its operands at offsets 2 to 12
(R83, R142, R144). -/
theorem State.decode_cbBytes_render {s : State}
    {mk : BitVec 16 → Rgb → Byte → Byte → BitVec 16 → BitVec 16 → List Triple → Instr}
    (hMark : s.cb 0 = 0#8) (hType : decodeType (s.cb 1) = decodeRender mk) :
    decode s.cbBytes = .ok (mk (u16be (s.cb 2) (s.cb 3)) ⟨s.cb 4, s.cb 5, s.cb 6⟩ (s.cb 7) (s.cb 8)
      (u16be (s.cb 9) (s.cb 10)) (u16be (s.cb 11) (s.cb 12))
      (s.cbTriples (u16be (s.cb 9) (s.cb 10)) (u16be (s.cb 11) (s.cb 12)))) := by
  rw [State.cbBytes_eq_fields, hMark, decode_mark_zero, hType]
  rfl

theorem dispatch_of_decode {s : State} {i : Instr} (h : decode s.cbBytes = .ok i) :
    dispatch s = exec i s := by
  rw [dispatch, h]

/-- Settles O29: the buffer decodes to a RenderRGB whose pixels are the buffer's own triples. -/
theorem dispatchedRenderRgb : Obligations.DispatchedRenderRgb := by
  unfold Obligations.DispatchedRenderRgb
  intro s hFb hMark hType
  have hDecode := State.decode_cbBytes_render (mk := .rgb) hMark (by rw [hType]; rfl)
  exact ⟨_, dispatch_of_decode hDecode, State.render_eq .., State.fbWord_render_cbTriples hFb _ _ _⟩

/-- Settles O30: the buffer decodes to a RenderHSV whose pixels are the buffer's own triples. -/
theorem dispatchedRenderHsv : Obligations.DispatchedRenderHsv := by
  unfold Obligations.DispatchedRenderHsv
  intro s hFb hMark hType
  have hDecode := State.decode_cbBytes_render (mk := .hsv) hMark (by rw [hType]; rfl)
  exact ⟨_, dispatch_of_decode hDecode, State.render_eq .., State.fbWord_render_cbTriples hFb _ _ _⟩

end Sys2Proof.Machine
end

section
/-!
Packing a pixel (`42_color_transform.md` R186). A channel put in one byte lane leaves the other lanes 0,
so under distinct lanes (R6, R24) the OR is disjoint and reading the four lanes back undoes `pack`.
-/
namespace Sys2Proof.Machine

theorem laneByte_or (k : BitVec 2) (v w : Word) :
    laneByte k (v ||| w) = laneByte k v ||| laneByte k w := BitVec.extractLsb'_or

@[simp] theorem laneByte_inLane_same (k : BitVec 2) (x : Byte) : laneByte k (inLane k x) = x := by
  ext i hi
  have hBit : 8 * k.toNat + i < 32 := by omega
  simp [laneByte, inLane, hBit, hi]

/-- Bit i of lane k is, in lane j, below the channel's bits where k is lower, and past them where k is
higher. -/
theorem laneByte_inLane_of_ne {k j : BitVec 2} (h : k ≠ j) (x : Byte) :
    laneByte k (inLane j x) = 0#8 := by
  ext i hi
  rw [laneByte, inLane, BitVec.getElem_extractLsb', BitVec.getLsbD_shiftLeft, BitVec.getElem_zero]
  obtain hlt | hgt := Nat.lt_or_gt_of_ne (mt BitVec.eq_of_toNat_eq h)
  · have hBelow : 8 * k.toNat + i < 8 * j.toNat := by omega
    simp [hBelow]
  · have hPast : 8 ≤ 8 * k.toNat + i - 8 * j.toNat := by omega
    simp [BitVec.getLsbD_setWidth, BitVec.getLsbD_of_ge x _ hPast]

/-- The channels of a packed word, each read from its lane (R36, R186). -/
def unpack (c : Config) (v : Word) : Rgbw :=
  ⟨laneByte c.laneR v, laneByte c.laneG v, laneByte c.laneB v, laneByte c.laneW v⟩

theorem unpack_pack {c : Config} (h : legalConfig c = true) (p : Rgbw) : unpack c (pack c p) = p := by
  obtain ⟨-, hRG, hRB, hRW, hGB, hGW, hBW⟩ := of_decide_eq_true h
  simp [unpack, pack, laneByte_or, laneByte_inLane_of_ne, hRG, hRB, hRW, hGB, hGW, hBW, hRG.symm,
    hRB.symm, hRW.symm, hGB.symm, hGW.symm, hBW.symm]

theorem pack_injective {c : Config} (h : legalConfig c = true) : Function.Injective (pack c) :=
  Function.LeftInverse.injective (unpack_pack h)

/-- Settles O19: the formula is `pack`'s own; its lanes and its injectivity come from `unpack_pack`. -/
theorem packPlacesEachChannel : Obligations.PackPlacesEachChannel := by
  unfold Obligations.PackPlacesEachChannel
  intro c p
  refine ⟨rfl, fun hLegal => ?_⟩
  have hUnpack := unpack_pack hLegal p
  exact ⟨congrArg Rgbw.r hUnpack, congrArg Rgbw.g hUnpack, congrArg Rgbw.b hUnpack,
    congrArg Rgbw.w hUnpack, fun _ hEq => pack_injective hLegal hEq⟩

end Sys2Proof.Machine
end

section
/-!
Every command completes (`41_command_dispatch.md` R151, R240). A command is a frame-buffer write, a
started flush, or the one after the other, and neither of the two touches the command buffer or the
framer. What a started flush is stands in the spec's decision D18.
-/
namespace Sys2Proof.Machine

theorem exec_cal (len : BitVec 16) (corr : Rgb) (bright : Byte) (s : State) :
    exec (.cal len corr bright) s =
      .next (s.fill (pack s.cfg (calColor corr bright))).startFlush := rfl

theorem exec_rgb (len : BitVec 16) (corr : Rgb) (sat bright : Byte) (start stop : BitVec 16)
    (px : List Triple) (s : State) :
    exec (.rgb len corr sat bright start stop px) s =
      .next (s.render start stop px (rgbColor s.cfg.hasWhite corr sat bright)) := rfl

theorem exec_hsv (len : BitVec 16) (corr : Rgb) (sat bright : Byte) (start stop : BitVec 16)
    (px : List Triple) (s : State) :
    exec (.hsv len corr sat bright start stop px) s =
      .next (s.render start stop px (hsvColor s.endpoints s.cfg.hasWhite corr sat bright)) := rfl

theorem exec_write (len : BitVec 16) (s : State) : exec (.write len) s = .next s.startFlush := rfl

/-- The render loop leaves the command buffer, the framer and the flush registers alone (R145). -/
theorem State.render_keeps_registers (s : State) (start stop : BitVec 16) (px : List Triple)
    (color : Triple → Rgbw) :
    let t := s.render start stop px color
    t.buf = s.buf ∧ t.fstate = s.fstate ∧ t.idx = s.idx ∧ t.dlen = s.dlen ∧ t.ctype = s.ctype ∧
      t.phase = s.phase ∧ t.fptr = s.fptr := by
  simp [State.render]

/-- Settles O26: Calibration is a fill and a started flush, a render command is a render loop alone,
and WriteLEDs is a started flush alone. -/
theorem onlyCalAndWriteFlush : Obligations.OnlyCalAndWriteFlush := by
  unfold Obligations.OnlyCalAndWriteFlush
  intro i s
  cases i with
  | cal len corr bright => exact ⟨_, exec_cal len corr bright s, by simp⟩
  | rgb len corr sat bright start stop px =>
    exact ⟨_, exec_rgb len corr sat bright start stop px s, State.render_keeps_registers ..⟩
  | hsv len corr sat bright start stop px =>
    exact ⟨_, exec_hsv len corr sat bright start stop px s, State.render_keeps_registers ..⟩
  | write len => exact ⟨_, exec_write len s, by simp⟩

end Sys2Proof.Machine
end

section
/-!
Decoding undoes encoding (`30_encoding.md` R80 to R91). Both formats with operands read their fields back
byte for byte; for a render command all that is left is whether the decoder finds the triples that were
laid out, and no more.
-/
namespace Sys2Proof

/-- A render command is read back, with bytes after it, exactly when its triples are (R83). -/
theorem decodeRender_renderBytes_append
    (mk : BitVec 16 → Rgb → Byte → Byte → BitVec 16 → BitVec 16 → List Triple → Instr)
    (len : BitVec 16) (corr : Rgb) (sat bright : Byte) {start stop : BitVec 16} {px : List Triple}
    {rest : List Byte} (h : takeTriples (stop.toNat - start.toNat) (tripleBytes px ++ rest) = px) :
    decodeRender mk (hiByte len :: loByte len :: (renderBytes corr sat bright start stop px ++ rest)) =
      .ok (mk len corr sat bright start stop px) := by
  simp only [renderBytes, List.cons_append, decodeRender, u16be_hi_lo, h]

theorem takeTriples_of_payloadFits {start stop : BitVec 16} {px : List Triple}
    (h : payloadFits start stop px = true) :
    takeTriples (stop.toNat - start.toNat) (tripleBytes px ++ []) = px := by
  rw [List.append_nil]
  exact takeTriples_tripleBytes (of_decide_eq_true h)

theorem takeTriples_of_payloadFills {start stop : BitVec 16} {px : List Triple} (rest : List Byte)
    (h : payloadFills start stop px = true) :
    takeTriples (stop.toNat - start.toNat) (tripleBytes px ++ rest) = px := by
  rw [← of_decide_eq_true h]
  exact takeTriples_tripleBytes_append px rest

theorem decode_encode_cal_append (len : BitVec 16) (corr : Rgb) (bright : Byte) (rest : List Byte) :
    decode (encode (.cal len corr bright) ++ rest) = .ok (.cal len corr bright) := by
  have h : decode (encode (.cal len corr bright) ++ rest) =
      .ok (.cal (u16be (hiByte len) (loByte len)) corr bright) := rfl
  rw [h, u16be_hi_lo]

theorem decode_encode_write_append (len : BitVec 16) (rest : List Byte) :
    decode (encode (.write len) ++ rest) = .ok (.write len) := by
  have h : decode (encode (.write len) ++ rest) = .ok (.write (u16be (hiByte len) (loByte len))) := rfl
  rw [h, u16be_hi_lo]

/-- Settles O2: a payload that fits its range is read back whole when nothing follows it. -/
theorem decodeEncodeRoundTrip : Obligations.DecodeEncodeRoundTrip := by
  unfold Obligations.DecodeEncodeRoundTrip
  intro i hWf
  rw [← List.append_nil (encode i)]
  cases i with
  | cal len corr bright => exact decode_encode_cal_append len corr bright []
  | rgb len corr sat bright start stop px =>
    exact decodeRender_renderBytes_append .rgb len corr sat bright (takeTriples_of_payloadFits hWf)
  | hsv len corr sat bright start stop px =>
    exact decodeRender_renderBytes_append .hsv len corr sat bright (takeTriples_of_payloadFits hWf)
  | write len => exact decode_encode_write_append len []

/-- Settles O3: a payload that fills its range is read back whole whatever follows it. -/
theorem trailingBytesAreIgnored : Obligations.TrailingBytesAreIgnored := by
  unfold Obligations.TrailingBytesAreIgnored
  intro i rest hComplete
  cases i with
  | cal len corr bright => exact decode_encode_cal_append len corr bright rest
  | rgb len corr sat bright start stop px =>
    exact decodeRender_renderBytes_append .rgb len corr sat bright
      (takeTriples_of_payloadFills rest hComplete)
  | hsv len corr sat bright start stop px =>
    exact decodeRender_renderBytes_append .hsv len corr sat bright
      (takeTriples_of_payloadFills rest hComplete)
  | write len => exact decode_encode_write_append len rest

theorem encode_and_decode {i : Instr} {bs : List Byte} (hBytes : encode i = bs) (hWf : i.wf = true) :
    encode i = bs ∧ decode bs = .ok i :=
  ⟨hBytes, hBytes ▸ decodeEncodeRoundTrip i hWf⟩

/-- Settles O1: the bytes are the encoder's own, and decoding them is the round trip. -/
theorem workedEncodings : Obligations.WorkedEncodings := by
  unfold Obligations.WorkedEncodings
  exact ⟨encode_and_decode rfl rfl, encode_and_decode rfl rfl, encode_and_decode rfl rfl,
    encode_and_decode rfl rfl⟩

@[simp] theorem renderBytes_length (corr : Rgb) (sat bright : Byte) (start stop : BitVec 16)
    (px : List Triple) : (renderBytes corr sat bright start stop px).length = 9 + 3 * px.length := by
  simp only [renderBytes, List.length_cons, tripleBytes_length]
  omega

theorem encode_length (i : Instr) : (encode i).length = 4 + i.payload.length := by
  simp only [encode, List.length_cons]
  omega

/-- Settles O4: the header is 4 bytes, and what follows it has the length of its format. -/
theorem nominalLengths : Obligations.NominalLengths := by
  unfold Obligations.NominalLengths
  intro len corr sat bright start stop px
  have hRender : 4 + (9 + 3 * px.length) = 13 + 3 * px.length := by omega
  refine ⟨rfl, ?_, ?_, rfl⟩
  · rw [encode_length, Instr.payload, renderBytes_length, hRender]
  · rw [encode_length, Instr.payload, renderBytes_length, hRender]

/-- The 13 fixed bytes of format RENDER, each by its offset (R83). -/
theorem eq_fields_of_length {bs : List Byte} (h : 13 ≤ bs.length) :
    bs = bs.getD 0 0#8 :: bs.getD 1 0#8 :: bs.getD 2 0#8 :: bs.getD 3 0#8 :: bs.getD 4 0#8 ::
      bs.getD 5 0#8 :: bs.getD 6 0#8 :: bs.getD 7 0#8 :: bs.getD 8 0#8 :: bs.getD 9 0#8 ::
      bs.getD 10 0#8 :: bs.getD 11 0#8 :: bs.getD 12 0#8 :: bs.drop 13 :=
  match bs, h with
  | _ :: _ :: _ :: _ :: _ :: _ :: _ :: _ :: _ :: _ :: _ :: _ :: _ :: _, _ => rfl

theorem decode_render_of_length {bs : List Byte}
    {mk : BitVec 16 → Rgb → Byte → Byte → BitVec 16 → BitVec 16 → List Triple → Instr}
    (h : 13 ≤ bs.length) (hMark : bs.getD 0 0#8 = 0#8)
    (hType : decodeType (bs.getD 1 0#8) = decodeRender mk) :
    decode bs = .ok (mk (u16be (bs.getD 2 0#8) (bs.getD 3 0#8))
      ⟨bs.getD 4 0#8, bs.getD 5 0#8, bs.getD 6 0#8⟩ (bs.getD 7 0#8) (bs.getD 8 0#8)
      (u16be (bs.getD 9 0#8) (bs.getD 10 0#8)) (u16be (bs.getD 11 0#8) (bs.getD 12 0#8))
      (takeTriples ((u16be (bs.getD 11 0#8) (bs.getD 12 0#8)).toNat -
        (u16be (bs.getD 9 0#8) (bs.getD 10 0#8)).toNat) (bs.drop 13))) := by
  conv => lhs; rw [eq_fields_of_length h, hMark, decode_mark_zero, hType]
  rfl

/-- Settles O6: the fixed fields are the first 13 bytes, and triple k is taken from offset `13 + 3k`. -/
theorem renderFieldsAtTheirOffsets : Obligations.RenderFieldsAtTheirOffsets := by
  unfold Obligations.RenderFieldsAtTheirOffsets
  intro bs hLen hMark start stop
  refine ⟨takeTriples (stop.toNat - start.toNat) (bs.drop 13), ?_, fun k hk => ?_, fun hType => ?_,
    fun hType => ?_⟩
  · rw [takeTriples_length, List.length_drop]
  · have hGet := List.getElem?_eq_getElem hk
    obtain ⟨h0, h1, h2⟩ := getElem?_of_takeTriples hGet
    rw [List.getElem?_drop] at h0 h1 h2
    rw [hGet, List.getD_eq_getElem?_getD, List.getD_eq_getElem?_getD, List.getD_eq_getElem?_getD,
      h0, show 14 + 3 * k = 13 + (3 * k + 1) by omega, h1,
      show 15 + 3 * k = 13 + (3 * k + 2) by omega, h2]
    rfl
  · exact decode_render_of_length hLen hMark (by rw [hType]; rfl)
  · exact decode_render_of_length hLen hMark (by rw [hType]; rfl)

end Sys2Proof
end

section
/-!
The configuration vector (`10_state.md` R24). Each field is a slice of the vector, and the mask that
clears the reserved bits leaves every slice below bit 25 as it is.
-/
namespace Sys2Proof.Machine

theorem extractLsb'_and_of_allOnes {v m : BitVec 32} {start len : Nat}
    (h : m.extractLsb' start len = BitVec.allOnes len) :
    (v &&& m).extractLsb' start len = v.extractLsb' start len := by
  rw [BitVec.extractLsb'_and, h, BitVec.and_allOnes]

theorem sampleConfig_and_mask (v : BitVec 32) :
    sampleConfig (v &&& 0x01FFFFFF#32) = sampleConfig v := by
  have hWhite : (v &&& 0x01FFFFFF#32).getLsbD 16 = v.getLsbD 16 := by
    rw [BitVec.getLsbD_and, show (0x01FFFFFF#32).getLsbD 16 = true by decide, Bool.and_true]
  rw [sampleConfig, hWhite, extractLsb'_and_of_allOnes (by decide),
    extractLsb'_and_of_allOnes (by decide), extractLsb'_and_of_allOnes (by decide),
    extractLsb'_and_of_allOnes (by decide), extractLsb'_and_of_allOnes (by decide)]
  rfl

theorem toNat_extractLsb'_two (v : BitVec 32) (start : Nat) :
    (v.extractLsb' start 2).toNat = v.toNat / 2 ^ start % 4 := by
  rw [BitVec.extractLsb'_toNat, Nat.shiftRight_eq_div_pow]

/-- Settles O7: every field is its slice, as a number, and the mask keeps the slices. -/
theorem configFieldLayout : Obligations.ConfigFieldLayout := by
  unfold Obligations.ConfigFieldLayout
  intro v
  refine ⟨by simp [sampleConfig], ?_, toNat_extractLsb'_two v 17, toNat_extractLsb'_two v 19,
    toNat_extractLsb'_two v 21, toNat_extractLsb'_two v 23, sampleConfig_and_mask v⟩
  change v.getLsbD 16 = true ↔ _
  rw [BitVec.getLsbD, Nat.testBit_eq_decide_div_mod_eq, decide_eq_true_iff]

end Sys2Proof.Machine
end

section
/-!
The framer, state by state (`40_packet_framer.md` R112 to R116). One rule says how a stream byte runs once
its framing is known, and `checkComplete` enters it through its test alone.
-/
namespace Sys2Proof.Machine

variable {s : State}

theorem State.byteIdle_marker (s : State) :
    s.byteIdle 0#8 = (((s.setCb 0 0#8).setIdx 1).setDlen 0#16).setFstate .gotStart := if_pos rfl

theorem State.byteType_of_lt (s : State) {b : Byte} (hb : b.toNat < 4) :
    s.byteType b = (((s.setCb 1 b).setIdx 2).setCtype (b.setWidth 2)).setFstate .gotType := if_pos hb

theorem State.byteType_of_four_le (s : State) {b : Byte} (hb : 4 ≤ b.toNat) : s.byteType b = s.toIdle :=
  if_neg (by omega)

theorem State.frameByte_of_gotStart (h : s.fstate = .gotStart) (b : Byte) :
    s.frameByte b = (s.byteType b, false) := by
  rw [State.frameByte, h]

theorem State.frameByte_of_gotType (h : s.fstate = .gotType) (b : Byte) :
    s.frameByte b = (s.byteLenHi b, false) := by
  rw [State.frameByte, h]

theorem State.frameByte_of_gotLenHi (h : s.fstate = .gotLenHi) (b : Byte) :
    s.frameByte b = (s.byteLenLo b).checkComplete := by
  rw [State.frameByte, h]

theorem State.frameByte_of_collecting (h : s.fstate = .collecting) (b : Byte) :
    s.frameByte b = (s.byteCollect b).checkComplete := by
  rw [State.frameByte, h]

/-- A byte that has its place in the buffer is framed, and what it completes is dispatched. -/
theorem takeStreamByte_of_space (hSpace : s.fstate = .collecting → s.idx < s.cap) (b : Byte) :
    takeStreamByte b s =
      if (s.frameByte b).2 then dispatch (s.frameByte b).1 else .next (s.frameByte b).1 := by
  have hNoFault : ¬(s.fstate = .collecting ∧ s.cap ≤ s.idx) :=
    fun ⟨hc, hle⟩ => Nat.not_lt.2 hle (hSpace hc)
  rw [takeStreamByte, if_neg hNoFault]

theorem takeStreamByte_of_open (hSpace : s.fstate = .collecting → s.idx < s.cap) {b : Byte} {u : State}
    (h : s.frameByte b = (u, false)) : takeStreamByte b s = .next u := by
  rw [takeStreamByte_of_space hSpace, h]
  rfl

/-- CheckComplete as StreamByte uses it (R116). -/
theorem takeStreamByte_of_checkComplete (hSpace : s.fstate = .collecting → s.idx < s.cap) {b : Byte}
    {u : State} (h : s.frameByte b = u.checkComplete) :
    takeStreamByte b s =
      if u.idx = u.dlen.toNat ∨ u.idx = u.cap then dispatch u.toIdle else .next u := by
  rw [takeStreamByte_of_space hSpace, h]
  obtain ⟨hDone, hEq⟩ | ⟨hOpen, hEq⟩ := u.checkComplete_cases
  · rw [hEq, if_pos hDone]
    rfl
  · rw [hEq, if_neg hOpen]
    rfl

theorem takeStreamByte_of_gotStart (h : s.fstate = .gotStart) (b : Byte) :
    takeStreamByte b s = .next (s.byteType b) :=
  takeStreamByte_of_open (by simp [h]) (State.frameByte_of_gotStart h b)

theorem takeStreamByte_of_gotType (h : s.fstate = .gotType) (b : Byte) :
    takeStreamByte b s = .next (s.byteLenHi b) :=
  takeStreamByte_of_open (by simp [h]) (State.frameByte_of_gotType h b)

theorem takeStreamByte_of_gotLenHi (h : s.fstate = .gotLenHi) (b : Byte) :
    takeStreamByte b s =
      if 4 = (s.byteLenLo b).dlen.toNat ∨ 4 = s.cap then dispatch (s.byteLenLo b).toIdle
      else .next (s.byteLenLo b) :=
  takeStreamByte_of_checkComplete (by simp [h]) (State.frameByte_of_gotLenHi h b)

theorem takeStreamByte_of_collecting (h : s.fstate = .collecting) (hIdx : s.idx < s.cap) (b : Byte) :
    takeStreamByte b s =
      if s.idx + 1 = s.dlen.toNat ∨ s.idx + 1 = s.cap then dispatch (s.byteCollect b).toIdle
      else .next (s.byteCollect b) :=
  takeStreamByte_of_checkComplete (fun _ => hIdx) (State.frameByte_of_collecting h b)

theorem toNat_setWidth_two {b : Byte} (hb : b.toNat < 4) : (b.setWidth 2).toNat = b.toNat := by
  rw [BitVec.toNat_setWidth, Nat.mod_eq_of_lt hb]

/-- A byte shifted to the high half is the u16 with a low half of 0 (R113). -/
theorem setWidth_shiftLeft_eight (b : Byte) : b.setWidth 16 <<< 8 = u16be b 0#8 := by
  apply BitVec.eq_of_toNat_eq
  rw [u16be_toNat, BitVec.toNat_shiftLeft, BitVec.toNat_setWidth, Nat.shiftLeft_eq]
  simp only [BitVec.toNat_ofNat]
  omega

/-- Settles O32: the three cases are the two stores of the framer and its return to Idle. -/
theorem markerAndTypeAreStored : Obligations.MarkerAndTypeAreStored := by
  unfold Obligations.MarkerAndTypeAreStored
  intro s b hBuf
  refine ⟨fun hIdle hb => ?_, fun hStart hb => ?_, fun hStart hb => ?_⟩
  · subst hb
    refine ⟨_, takeStreamByte_of_idle hIdle 0#8, ?_, fun k => ?_⟩
    · rw [State.byteIdle_marker]
      rfl
    · rw [State.byteIdle_marker]
      exact State.cb_setCb hBuf 0 k 0#8
  · refine ⟨_, takeStreamByte_of_gotStart hStart b, ?_⟩
    rw [State.byteType_of_lt s hb]
    exact ⟨rfl, toNat_setWidth_two hb, fun k => State.cb_setCb hBuf 1 k b⟩
  · rw [takeStreamByte_of_gotStart hStart, State.byteType_of_four_le s hb]
    rfl

/-- Settles O33: `byteLenHi` stores the byte and shifts it to the high half of `dlen`. -/
theorem gotTypeTakesLengthHigh : Obligations.GotTypeTakesLengthHigh := by
  unfold Obligations.GotTypeTakesLengthHigh
  intro s b hType hBuf
  refine ⟨_, takeStreamByte_of_gotType hType b, rfl, ?_, fun k => State.cb_setCb hBuf 2 k b⟩
  change (b.setWidth 16 <<< 8).toNat = b.toNat * 256
  simp [setWidth_shiftLeft_eight, u16be_toNat]

/-- Settles O34: `byteLenLo` stores the byte and completes `dlen`, and CheckComplete runs at `idx` 4. -/
theorem gotLenHiTakesLengthLow : Obligations.GotLenHiTakesLengthLow := by
  unfold Obligations.GotLenHiTakesLengthLow
  intro s b hLen hBuf
  refine ⟨s.byteLenLo b, rfl, fun k => State.cb_setCb hBuf 3 k b, ?_⟩
  simp only [takeStreamByte_of_gotLenHi hLen, eq_comm (a := 4)]
  rfl

/-- Settles O35: `byteCollect` stores the byte at `idx`, and CheckComplete runs at `idx + 1`. -/
theorem collectingStoresPayload : Obligations.CollectingStoresPayload := by
  unfold Obligations.CollectingStoresPayload
  intro s b hColl hIdx hBuf
  exact ⟨s.byteCollect b, rfl, fun k => State.cb_setCb hBuf s.idx k b,
    takeStreamByte_of_collecting hColl hIdx b⟩

end Sys2Proof.Machine
end

section
/-!
Dispatch and the datagram path (`41_command_dispatch.md` R140 to R143, R150; `40_packet_framer.md` R120,
R121). A command writes the frame buffer and the flush registers at most, so a dispatch always completes
and everything else of the state passes through it.
-/
namespace Sys2Proof.Machine

/-- Every command completes and leaves all but the frame buffer and the flush registers (R151, R240). -/
theorem exec_frame (i : Instr) (s : State) :
    ∃ t, exec i s = .next t ∧ t = { s with fb := t.fb, phase := t.phase, fptr := t.fptr } := by
  cases i with
  | cal len corr bright => exact ⟨_, exec_cal len corr bright s, rfl⟩
  | rgb len corr sat bright start stop px => exact ⟨_, exec_rgb len corr sat bright start stop px s, rfl⟩
  | hsv len corr sat bright start stop px => exact ⟨_, exec_hsv len corr sat bright start stop px s, rfl⟩
  | write len => exact ⟨_, exec_write len s, rfl⟩

theorem dispatch_frame (s : State) :
    ∃ t, dispatch s = .next t ∧ t = { s with fb := t.fb, phase := t.phase, fptr := t.fptr } := by
  obtain ⟨i, -, hEq⟩ | ⟨-, hEq⟩ := dispatch_cases s
  · rw [hEq]
    exact exec_frame i s
  · exact ⟨s, hEq, rfl⟩

theorem dispatch_of_error {s : State} {e : Reject} (h : decode s.cbBytes = .error e) :
    dispatch s = .next s := by
  rw [dispatch, h]

theorem dispatch_of_badMark {s : State} (h : s.cb 0 ≠ 0#8) : dispatch s = .next s :=
  dispatch_of_error (by rw [State.cbBytes_eq_fields, decode_of_mark_ne _ _ h])

theorem dispatch_of_badType {s : State} (h : 4 ≤ (s.cb 1).toNat) : dispatch s = .next s := by
  by_cases hMark : s.cb 0 = 0#8
  · exact dispatch_of_error
      (by rw [State.cbBytes_eq_fields, hMark, decode_mark_zero, decodeType_of_four_le _ h])
  · exact dispatch_of_badMark hMark

/-- Settles O27: the decoder rejects both headers, and a rejected buffer is dropped. -/
theorem dispatchDropsBadHeaders : Obligations.DispatchDropsBadHeaders := by
  unfold Obligations.DispatchDropsBadHeaders
  rintro s (hMark | hType)
  · exact dispatch_of_badMark hMark
  · exact dispatch_of_badType hType

theorem dispatch_cal {s : State} (hMark : s.cb 0 = 0#8) (hType : s.cb 1 = 0#8) :
    dispatch s = exec (.cal (u16be (s.cb 2) (s.cb 3)) ⟨s.cb 4, s.cb 5, s.cb 6⟩ (s.cb 7)) s := by
  refine dispatch_of_decode ?_
  rw [State.cbBytes_eq_fields, hMark, decode_mark_zero, hType]
  rfl

theorem dispatch_write {s : State} (hMark : s.cb 0 = 0#8) (hType : s.cb 1 = 3#8) :
    dispatch s = .next s.startFlush := by
  have hDecode : decode s.cbBytes = .ok (.write (u16be (s.cb 2) (s.cb 3))) := by
    rw [State.cbBytes_eq_fields, hMark, decode_mark_zero, hType]
    rfl
  rw [dispatch_of_decode hDecode, exec_write]

/-- Settles O28: the buffer decodes to Calibration with its operands, and to WriteLEDs. -/
theorem dispatchReadsCalAndWrite : Obligations.DispatchReadsCalAndWrite := by
  unfold Obligations.DispatchReadsCalAndWrite
  exact fun s hMark => ⟨dispatch_cal hMark, dispatch_write hMark⟩

theorem takeDatagram_nil (s : State) : takeDatagram [] s = dispatch s := rfl

/-- Settles O37: nothing is copied, so the buffer as it stands is dispatched. -/
theorem emptyDatagramRepeatsCommand : Obligations.EmptyDatagramRepeatsCommand := by
  unfold Obligations.EmptyDatagramRepeatsCommand
  exact ⟨takeDatagram_nil, fun s hMark hType => dispatch_write hMark hType⟩

/-- Settles O36: `copyIn` is the copy, and the frame of a dispatch holds the framer registers. -/
theorem datagramIsCopiedAndDispatched : Obligations.DatagramIsCopiedAndDispatched := by
  unfold Obligations.DatagramIsCopiedAndDispatched
  intro d s hBuf
  obtain ⟨t, hNext, hFrame⟩ := dispatch_frame (s.copyIn d)
  exact ⟨s.copyIn d, t, rfl, State.cb_copyIn hBuf d, rfl, hNext,
    (congrArg State.fstate hFrame :), (congrArg State.idx hFrame :), (congrArg State.dlen hFrame :),
    (congrArg State.ctype hFrame :), (congrArg State.buf hFrame :)⟩

end Sys2Proof.Machine
end

section
/-!
The invariant of the block (`40_packet_framer.md` R117, `20_memory.md` R61). It speaks of the block's own
registers and buffers, so each operation is taken on its own: what it must bring to keep the invariant is
said once, and every step is a composition of such operations.
-/
namespace Sys2Proof.Machine

variable {s : State}

theorem State.framed_of_idle (h : s.fstate = .idle) : s.framed := by
  simp [State.framed, h]

theorem State.framed_gotStart_iff (h : s.fstate = .gotStart) :
    s.framed ↔ s.idx = 1 ∧ s.dlen = 0#16 ∧ s.cb 0 = 0#8 := by
  simp [State.framed, h]

theorem State.framed_gotType_iff (h : s.fstate = .gotType) :
    s.framed ↔ s.idx = 2 ∧ s.dlen = 0#16 ∧ s.cb 0 = 0#8 ∧ s.cb 1 = s.ctype.setWidth 8 := by
  simp [State.framed, h]

theorem State.framed_gotLenHi_iff (h : s.fstate = .gotLenHi) :
    s.framed ↔ s.idx = 3 ∧ s.dlen = u16be (s.cb 2) 0#8 ∧ s.cb 0 = 0#8 ∧
      s.cb 1 = s.ctype.setWidth 8 := by
  simp [State.framed, h]

theorem State.framed_collecting_iff (h : s.fstate = .collecting) :
    s.framed ↔ 4 ≤ s.idx ∧ s.idx < s.cap ∧ s.dlen = u16be (s.cb 2) (s.cb 3) ∧ s.cb 0 = 0#8 ∧
      s.cb 1 = s.ctype.setWidth 8 ∧ (s.dlen.toNat < 4 ∨ s.idx < s.dlen.toNat) := by
  simp [State.framed, h]

theorem pixelCount_pos {c : Config} (h : legalConfig c = true) : 0 < pixelCount c := by
  obtain ⟨hn, -⟩ := of_decide_eq_true h
  exact Nat.pos_of_ne_zero fun h0 => hn (BitVec.eq_of_toNat_eq h0)

theorem State.four_lt_cap (s : State) : 4 < s.cap := by
  rw [s.cap_eq]
  omega

theorem State.Inv.count_pos (h : s.Inv) : 0 < s.count := pixelCount_pos h.legal

/-! ### Each operation keeps the invariant -/

/-- The host's side takes no part in the invariant. -/
theorem State.Inv.withHost (h : s.Inv) (sIn : List Byte) (dIn : List (List Byte)) (ts : List Turn)
    (out : List Word) :
    State.Inv { s with streamIn := sIn, dgramIn := dIn, turns := ts, txOut := out } where
  legal := h.legal
  buf := h.buf
  fb := h.fb
  idx := h.idx
  framed := h.framed
  ready := h.ready
  flushing := h.flushing

/-- Outside a flush the framer may take any state that agrees with the buffer. -/
theorem State.Inv.withFramer (h : s.Inv) (hReady : s.phase = .ready) {buf : Memory 8} {f : FState}
    {n : Nat} {d : BitVec 16} {c : BitVec 2} (hBuf : buf.wf ∧ buf.below s.cap) (hIdx : n ≤ s.cap)
    (hFramed : State.framed { s with buf := buf, fstate := f, idx := n, dlen := d, ctype := c }) :
    State.Inv { s with buf := buf, fstate := f, idx := n, dlen := d, ctype := c } where
  legal := h.legal
  buf := hBuf
  fb := h.fb
  idx := hIdx
  framed := hFramed
  ready := h.ready
  flushing := fun hFlush => absurd (hReady.symm.trans hFlush) (by decide)

theorem State.Inv.toIdle (h : s.Inv) (hReady : s.phase = .ready) : s.toIdle.Inv :=
  h.withFramer hReady h.buf h.idx (State.framed_of_idle rfl)

theorem State.Inv.withFb (h : s.Inv) {fb : Memory 32} (hFb : fb.wf ∧ fb.below s.count) :
    State.Inv { s with fb := fb } where
  legal := h.legal
  buf := h.buf
  fb := hFb
  idx := h.idx
  framed := h.framed
  ready := h.ready
  flushing := h.flushing

theorem State.Inv.fill (h : s.Inv) (px : Word) : (s.fill px).Inv :=
  h.withFb (State.fill_fb_good h.fb px)

theorem State.Inv.render (h : s.Inv) (start stop : BitVec 16) (px : List Triple)
    (color : Triple → Rgbw) : (s.render start stop px color).Inv :=
  h.withFb (State.render_fb_good h.fb start stop px color)

/-- The flush registers may take any values that fit each other and the framer. -/
theorem State.Inv.withFlush (h : s.Inv) {p : Phase} {n : Nat} (hReady : p = .ready → n = 0)
    (hFlush : p = .flushing → n < s.count ∧ s.fstate = .idle) :
    State.Inv { s with phase := p, fptr := n } where
  legal := h.legal
  buf := h.buf
  fb := h.fb
  idx := h.idx
  framed := h.framed
  ready := hReady
  flushing := hFlush

theorem State.Inv.startFlush (h : s.Inv) (hIdle : s.fstate = .idle) : s.startFlush.Inv :=
  h.withFlush (fun _ => rfl) fun _ => ⟨h.count_pos, hIdle⟩

theorem State.advanceFlush_of_last (h : s.fptr + 1 = s.count) :
    s.advanceFlush = { s with phase := .ready, fptr := 0 } := if_pos h

theorem State.advanceFlush_of_not_last (h : s.fptr + 1 ≠ s.count) :
    s.advanceFlush = { s with fptr := s.fptr + 1 } := if_neg h

theorem State.Inv.advanceFlush (h : s.Inv) (hFlush : s.phase = .flushing) : s.advanceFlush.Inv := by
  obtain ⟨hPtr, hIdle⟩ := h.flushing hFlush
  by_cases hLast : s.fptr + 1 = s.count
  · rw [State.advanceFlush_of_last hLast]
    exact h.withFlush (fun _ => rfl) nofun
  · rw [State.advanceFlush_of_not_last hLast]
    exact h.withFlush (fun hReady => nomatch hFlush.symm.trans hReady)
      fun _ => ⟨Nat.lt_of_le_of_ne hPtr hLast, hIdle⟩

theorem State.Inv.copyIn (h : s.Inv) (hReady : s.phase = .ready) (hIdle : s.fstate = .idle)
    (d : List Byte) : (s.copyIn d).Inv := by
  obtain ⟨hWf, hBelow⟩ := h.buf
  refine h.withFramer hReady ⟨Memory.writeList_wf hWf 0 _, Memory.writeList_below hBelow _ (.inr ?_)⟩
    h.idx (State.framed_of_idle hIdle)
  rw [List.length_take]
  omega

/-- A reset needs nothing of the state before it (R270). -/
theorem State.Inv.resetWith {c : Config} (hLegal : legalConfig c = true) : (s.resetWith c).Inv where
  legal := hLegal
  buf := ⟨⟨List.Pairwise.nil, by simp⟩, by simp [Memory.below]⟩
  fb := ⟨⟨List.Pairwise.nil, by simp⟩, by simp [Memory.below]⟩
  idx := Nat.zero_le _
  framed := State.framed_of_idle rfl
  ready := fun _ => rfl
  flushing := nofun

/-! ### A framed byte keeps the invariant -/

theorem State.Inv.write_buf_good (h : s.Inv) {k : Nat} (hk : k < s.cap) (b : Byte) :
    (s.buf.write k b).wf ∧ (s.buf.write k b).below s.cap := by
  obtain ⟨hWf, hBelow⟩ := h.buf
  exact ⟨Memory.write_wf hWf k b, Memory.write_below hBelow hk b⟩

theorem setWidth_eight_setWidth_two {b : Byte} (hb : b.toNat < 4) :
    (b.setWidth 2).setWidth 8 = b := by
  apply BitVec.eq_of_toNat_eq
  rw [BitVec.toNat_setWidth, toNat_setWidth_two hb, Nat.mod_eq_of_lt b.isLt]

/-- The low length byte completes the declared length (R114). -/
theorem u16be_or_setWidth (a b : Byte) : u16be a 0#8 ||| b.setWidth 16 = u16be a b := by
  apply BitVec.eq_of_toNat_eq
  have hShift : a.toNat * 256 + 0 = a.toNat <<< 8 := by rw [Nat.shiftLeft_eq, Nat.add_zero]
  rw [BitVec.toNat_or, u16be_toNat, u16be_toNat, BitVec.toNat_setWidth, Nat.mod_eq_of_lt (by omega),
    BitVec.toNat_ofNat, Nat.zero_mod, hShift, ← Nat.shiftLeft_add_eq_or_of_lt b.isLt,
    Nat.shiftLeft_eq]

/-- The registers in Collecting before CheckComplete: the command may just have become complete. -/
def State.collected (s : State) : Prop :=
  4 ≤ s.idx ∧ s.idx ≤ s.cap ∧ s.dlen = u16be (s.cb 2) (s.cb 3) ∧ s.cb 0 = 0#8 ∧
    s.cb 1 = s.ctype.setWidth 8 ∧ (s.dlen.toNat < 4 ∨ s.idx ≤ s.dlen.toNat)

/-- CheckComplete turns what a stored byte leaves into a good state: Idle, or an incomplete command. -/
theorem State.Inv.checkComplete (h : s.Inv) (hReady : s.phase = .ready) {buf : Memory 8} {n : Nat}
    {d : BitVec 16} {c : BitVec 2} (hBuf : buf.wf ∧ buf.below s.cap)
    (hColl : State.collected
      { s with buf := buf, fstate := .collecting, idx := n, dlen := d, ctype := c }) :
    (State.checkComplete
      { s with buf := buf, fstate := .collecting, idx := n, dlen := d, ctype := c }).1.Inv := by
  obtain ⟨hFour, hCap, hDlen, hMark, hType, hLen⟩ := hColl
  obtain ⟨-, hEq⟩ | ⟨hOpen, hEq⟩ := State.checkComplete_cases
    { s with buf := buf, fstate := .collecting, idx := n, dlen := d, ctype := c }
  · rw [hEq]
    exact h.withFramer hReady hBuf hCap (State.framed_of_idle rfl)
  · rw [hEq]
    obtain ⟨hNotDlen, hNotCap⟩ := not_or.1 hOpen
    exact h.withFramer hReady hBuf hCap <| (State.framed_collecting_iff rfl).2
      ⟨hFour, Nat.lt_of_le_of_ne hCap hNotCap, hDlen, hMark, hType,
        hLen.imp_right fun hLe => Nat.lt_of_le_of_ne hLe hNotDlen⟩

theorem State.Inv.byteIdle (h : s.Inv) (hReady : s.phase = .ready) (b : Byte) : (s.byteIdle b).Inv := by
  have hCap := s.four_lt_cap
  by_cases hb : b = 0#8
  · subst hb
    rw [State.byteIdle_marker]
    refine h.withFramer hReady (h.write_buf_good (by omega) 0#8) (show 1 ≤ s.cap by omega) ?_
    refine (State.framed_gotStart_iff rfl).2 ⟨rfl, rfl, ?_⟩
    exact (State.cb_setCb h.buf.1 0 0 0#8).trans (if_pos rfl)
  · rwa [State.byteIdle_of_ne s hb]

theorem State.Inv.byteType (h : s.Inv) (hReady : s.phase = .ready) (hStart : s.fstate = .gotStart)
    (b : Byte) : (s.byteType b).Inv := by
  have hCap := s.four_lt_cap
  obtain hb | hb := Nat.lt_or_ge b.toNat 4
  · obtain ⟨-, hDlen, hMark⟩ := (State.framed_gotStart_iff hStart).1 h.framed
    have hCb := State.cb_setCb h.buf.1 1 (v := b)
    rw [State.byteType_of_lt s hb]
    refine h.withFramer hReady (h.write_buf_good (by omega) b) (show 2 ≤ s.cap by omega) ?_
    refine (State.framed_gotType_iff rfl).2 ⟨rfl, hDlen, (hCb 0).trans hMark, ?_⟩
    exact (hCb 1).trans (setWidth_eight_setWidth_two hb).symm
  · rw [State.byteType_of_four_le s hb]
    exact h.toIdle hReady

theorem State.Inv.byteLenHi (h : s.Inv) (hReady : s.phase = .ready) (hType : s.fstate = .gotType)
    (b : Byte) : (s.byteLenHi b).Inv := by
  have hCap := s.four_lt_cap
  obtain ⟨-, -, hMark, hCtype⟩ := (State.framed_gotType_iff hType).1 h.framed
  have hCb := State.cb_setCb h.buf.1 2 (v := b)
  refine h.withFramer hReady (h.write_buf_good (by omega) b) (show 3 ≤ s.cap by omega) ?_
  refine (State.framed_gotLenHi_iff rfl).2 ⟨rfl, ?_, (hCb 0).trans hMark, (hCb 1).trans hCtype⟩
  exact (setWidth_shiftLeft_eight b).trans (congrArg (u16be · 0#8) (hCb 2).symm)

theorem State.Inv.byteLenLo (h : s.Inv) (hReady : s.phase = .ready) (hLen : s.fstate = .gotLenHi)
    (b : Byte) : (s.byteLenLo b).checkComplete.1.Inv := by
  have hCap := s.four_lt_cap
  obtain ⟨-, hDlen, hMark, hCtype⟩ := (State.framed_gotLenHi_iff hLen).1 h.framed
  have hCb := State.cb_setCb h.buf.1 3 (v := b)
  have hWhole : s.dlen ||| b.setWidth 16 = u16be ((s.setCb 3 b).cb 2) ((s.setCb 3 b).cb 3) := by
    rw [hDlen, u16be_or_setWidth, hCb 2, hCb 3]
    rfl
  exact h.checkComplete hReady (h.write_buf_good (by omega) b)
    ⟨Nat.le_refl 4, Nat.le_of_lt hCap, hWhole, (hCb 0).trans hMark, (hCb 1).trans hCtype,
      Nat.lt_or_ge _ 4⟩

theorem State.Inv.byteCollect (h : s.Inv) (hReady : s.phase = .ready) (hState : s.fstate = .collecting)
    (b : Byte) : (s.byteCollect b).checkComplete.1.Inv := by
  obtain ⟨hFour, hIdx, hDlen, hMark, hCtype, hLen⟩ := (State.framed_collecting_iff hState).1 h.framed
  have hCb : ∀ k, k < 4 → (s.setCb s.idx b).cb k = s.cb k := fun k hk =>
    (State.cb_setCb h.buf.1 s.idx k b).trans (if_neg (by omega))
  have hWhole : s.dlen = u16be ((s.setCb s.idx b).cb 2) ((s.setCb s.idx b).cb 3) := by
    rw [hCb 2 (by omega), hCb 3 (by omega), hDlen]
  have hColl : State.collected
      { s with buf := s.buf.write s.idx b, fstate := .collecting, idx := s.idx + 1 } :=
    ⟨Nat.le_add_right_of_le hFour, hIdx, hWhole, (hCb 0 (by omega)).trans hMark,
      (hCb 1 (by omega)).trans hCtype, hLen⟩
  have hEq : s.byteCollect b =
      { s with buf := s.buf.write s.idx b, fstate := .collecting, idx := s.idx + 1 } := by
    rw [← hState]
    rfl
  rw [hEq]
  exact h.checkComplete hReady (h.write_buf_good hIdx b) hColl

/-- Framing a byte that has its place in the buffer keeps the invariant. -/
theorem State.Inv.frameByte (h : s.Inv) (hReady : s.phase = .ready) (b : Byte) :
    (s.frameByte b).1.Inv := by
  cases hState : s.fstate with
  | idle =>
    rw [State.frameByte_of_idle hState]
    exact h.byteIdle hReady b
  | gotStart =>
    rw [State.frameByte_of_gotStart hState]
    exact h.byteType hReady hState b
  | gotType =>
    rw [State.frameByte_of_gotType hState]
    exact h.byteLenHi hReady hState b
  | gotLenHi =>
    rw [State.frameByte_of_gotLenHi hState]
    exact h.byteLenLo hReady hState b
  | collecting =>
    rw [State.frameByte_of_collecting hState]
    exact h.byteCollect hReady hState b

/-- A completed command leaves the framer in Idle (R116). -/
theorem State.checkComplete_idle (h : s.checkComplete.2 = true) : s.checkComplete.1.fstate = .idle := by
  obtain ⟨-, hEq⟩ | ⟨-, hEq⟩ := s.checkComplete_cases
  · rw [hEq]
    rfl
  · rw [hEq] at h
    cases h

theorem State.frameByte_idle {b : Byte} (h : (s.frameByte b).2 = true) :
    (s.frameByte b).1.fstate = .idle := by
  cases hState : s.fstate with
  | idle => simp [State.frameByte_of_idle hState] at h
  | gotStart => simp [State.frameByte_of_gotStart hState] at h
  | gotType => simp [State.frameByte_of_gotType hState] at h
  | gotLenHi =>
    rw [State.frameByte_of_gotLenHi hState] at h ⊢
    exact State.checkComplete_idle h
  | collecting =>
    rw [State.frameByte_of_collecting hState] at h ⊢
    exact State.checkComplete_idle h

/-- `s` with the framer registers and the command buffer of `u`. -/
def State.withFramerOf (s u : State) : State :=
  { s with buf := u.buf, fstate := u.fstate, idx := u.idx, dlen := u.dlen, ctype := u.ctype }

theorem State.checkComplete_frame {u : State} (h : u = s.withFramerOf u) :
    u.checkComplete.1 = s.withFramerOf u.checkComplete.1 := by
  obtain ⟨-, hEq⟩ | ⟨-, hEq⟩ := u.checkComplete_cases
  · rw [hEq]
    exact congrArg State.toIdle h
  · rwa [hEq]

/-- Framing a byte changes the framer registers and the command buffer alone (R110 to R116). -/
theorem State.frameByte_frame (s : State) (b : Byte) :
    (s.frameByte b).1 = s.withFramerOf (s.frameByte b).1 := by
  cases hState : s.fstate with
  | idle =>
    rw [State.frameByte_of_idle hState]
    by_cases hb : b = 0#8
    · subst hb
      rw [State.byteIdle_marker]
      rfl
    · rw [State.byteIdle_of_ne s hb]
      rfl
  | gotStart =>
    rw [State.frameByte_of_gotStart hState]
    obtain hb | hb := Nat.lt_or_ge b.toNat 4
    · rw [State.byteType_of_lt s hb]
      rfl
    · rw [State.byteType_of_four_le s hb]
      rfl
  | gotType =>
    rw [State.frameByte_of_gotType hState]
    rfl
  | gotLenHi =>
    rw [State.frameByte_of_gotLenHi hState]
    exact State.checkComplete_frame rfl
  | collecting =>
    rw [State.frameByte_of_collecting hState]
    exact State.checkComplete_frame rfl

/-! ### Every step keeps the invariant -/

theorem exec_keeps_inv (h : s.Inv) (hIdle : s.fstate = .idle) (i : Instr) :
    ∃ t, exec i s = .next t ∧ t.Inv := by
  cases i with
  | cal len corr bright =>
    exact ⟨_, exec_cal len corr bright s, (h.fill _).startFlush hIdle⟩
  | rgb len corr sat bright start stop px =>
    exact ⟨_, exec_rgb len corr sat bright start stop px s, h.render start stop px _⟩
  | hsv len corr sat bright start stop px =>
    exact ⟨_, exec_hsv len corr sat bright start stop px s, h.render start stop px _⟩
  | write len => exact ⟨_, exec_write len s, h.startFlush hIdle⟩

theorem dispatch_keeps_inv (h : s.Inv) (hIdle : s.fstate = .idle) :
    ∃ t, dispatch s = .next t ∧ t.Inv := by
  obtain ⟨i, -, hEq⟩ | ⟨-, hEq⟩ := dispatch_cases s
  · rw [hEq]
    exact exec_keeps_inv h hIdle i
  · exact ⟨s, hEq, h⟩

theorem State.Inv.space (h : s.Inv) (hColl : s.fstate = .collecting) : s.idx < s.cap :=
  ((State.framed_collecting_iff hColl).1 h.framed).2.1

theorem takeStreamByte_keeps_inv (h : s.Inv) (hReady : s.phase = .ready) (b : Byte) :
    ∃ t, takeStreamByte b s = .next t ∧ t.Inv := by
  have hFramed := h.frameByte hReady b
  rw [takeStreamByte_of_space h.space]
  split
  · exact dispatch_keeps_inv hFramed (State.frameByte_idle ‹_›)
  · exact ⟨_, rfl, hFramed⟩

theorem takeDatagram_keeps_inv (h : s.Inv) (hReady : s.phase = .ready) (hIdle : s.fstate = .idle)
    (d : List Byte) : ∃ t, takeDatagram d s = .next t ∧ t.Inv :=
  dispatch_keeps_inv (h.copyIn hReady hIdle d) hIdle

theorem flushStep_of_lt (h : s.fptr < s.count) :
    flushStep s = .next (s.tx (s.fbWord s.fptr)).advanceFlush := if_pos h

theorem flushStep_keeps_inv (h : s.Inv) (hFlush : s.phase = .flushing) :
    ∃ t, flushStep s = .next t ∧ t.Inv := by
  obtain ⟨hPtr, -⟩ := h.flushing hFlush
  have hTx : (s.tx (s.fbWord s.fptr)).Inv := h.withHost s.streamIn s.dgramIn s.turns _
  exact ⟨_, flushStep_of_lt hPtr, hTx.advanceFlush hFlush⟩

theorem applyReset_of_legal {v : BitVec 32} (h : legalConfig (sampleConfig v) = true) :
    applyReset v s = .next (s.resetWith (sampleConfig v)) := if_pos h

theorem applyReset_of_illegal {v : BitVec 32} (h : legalConfig (sampleConfig v) = false) :
    applyReset v s = .refused .illegalConfig := if_neg (by simp [h])

/-- In a good state a turn ends in a good state, or it is the refused reset. -/
theorem TurnCase.keeps_inv {turn : Turn} {o : Host.Outcome State Fault Refusal}
    (hTurn : TurnCase turn s o) (h : s.Inv) :
    (∃ t, o = .next t ∧ t.Inv) ∨
      ∃ v, turn = .reset v ∧ legalConfig (sampleConfig v) = false ∧ o = .refused .illegalConfig := by
  cases hTurn with
  | reset v hv =>
    cases hLegal : legalConfig (sampleConfig v) with
    | true => exact .inl ⟨_, applyReset_of_legal hLegal, State.Inv.resetWith hLegal⟩
    | false => exact .inr ⟨v, hv, hLegal, applyReset_of_illegal hLegal⟩
  | illegal hIllegal _ => exact absurd h.legal (by simp [hIllegal])
  | wait _ _ => exact .inl ⟨s, rfl, h⟩
  | byte b bs _ _ _ hReady =>
    exact .inl (takeStreamByte_keeps_inv (h.withHost bs s.dgramIn s.turns s.txOut) hReady b)
  | datagram d ds _ _ _ hReady hIdle =>
    exact .inl (takeDatagram_keeps_inv (h.withHost s.streamIn ds s.turns s.txOut) hReady hIdle d)
  | word _ _ hFlush => exact .inl (flushStep_keeps_inv h hFlush)

theorem step_keeps_inv (h : s.Inv) :
    (∃ t, step s = .next t ∧ t.Inv) ∨
      ∃ v ts, s.turns = .reset v :: ts ∧ legalConfig (sampleConfig v) = false ∧
        step s = .refused .illegalConfig := by
  obtain ⟨-, hWait⟩ | ⟨turn, ts, hTurns, hTurn⟩ := step_cases s
  · exact .inl ⟨s, hWait, h⟩
  · refine (hTurn.keeps_inv (h.withHost s.streamIn s.dgramIn ts s.txOut)).imp_right ?_
    rintro ⟨v, rfl, hRefused⟩
    exact ⟨v, ts, hTurns, hRefused⟩

/-- Settles O55: each kind of step keeps the invariant, and a refused reset answers no state. -/
theorem stepKeepsInv : Obligations.StepKeepsInv := by
  unfold Obligations.StepKeepsInv
  intro s t h hStep
  obtain ⟨u, hNext, hInv⟩ | ⟨v, ts, -, -, hRefused⟩ := step_keeps_inv h
  · obtain rfl := Host.Outcome.next.inj (hNext.symm.trans hStep)
    exact hInv
  · exact nomatch hRefused.symm.trans hStep

/-- Settles O56: a step of a good state answers a state, or it is the refused reset. -/
theorem stepNeverFaults : Obligations.StepNeverFaults := by
  unfold Obligations.StepNeverFaults
  exact fun s h => (step_keeps_inv h).imp_left fun ⟨t, hNext, _⟩ => ⟨t, hNext⟩

/-- Settles O54: a machine right after reset is one that any legal reset leaves. -/
theorem resetMeetsInvariants : Obligations.ResetMeetsInvariants := by
  unfold Obligations.ResetMeetsInvariants
  have hZero : laneByte 3#2 0#32 = 0#8 := by decide
  exact ⟨State.Inv.resetWith (s := State.reset) (c := Config.example) rfl, fun _ _ => hZero⟩

end Sys2Proof.Machine
end

section
/-!
What the commands write (`41_command_dispatch.md` R143 to R150). Calibration's words are those of a fill and
a render command's those of the render loop, for whatever color function the command has.
-/
namespace Sys2Proof

/-- A run of writes done twice is the run done once. -/
theorem Memory.writeList_writeList {w : Nat} {m : Memory w} (h : m.wf) (a : Nat)
    (vs : List (BitVec w)) : (m.writeList a vs).writeList a vs = m.writeList a vs := by
  have hOnce := Memory.writeList_wf h a vs
  refine Memory.ext_read (Memory.writeList_wf hOnce a vs) hOnce fun b => ?_
  rw [Memory.read_writeList hOnce, Memory.read_writeList h]
  split
  · rfl
  · rfl

end Sys2Proof

namespace Sys2Proof.Machine

variable {s : State}

theorem State.cbTriple_eq (s : State) (k : Nat) :
    s.cbTriple k = ⟨s.cb (13 + 3 * k), s.cb (14 + 3 * k), s.cb (15 + 3 * k)⟩ := by
  rw [State.cbTriple, tripleOffset, show 13 + 3 * k + 1 = 14 + 3 * k by omega,
    show 13 + 3 * k + 2 = 15 + 3 * k by omega]

/-- The render loop with the place of every triple written out (R145). -/
theorem State.fbWord_render_pixels (h : s.fb.wf) (start stop : BitVec 16) (px : List Triple)
    (color : Triple → Rgbw) (i : Nat) :
    (s.render start stop px color).fbWord i =
      if min start.toNat s.count ≤ i ∧ i < min stop.toNat s.count then
        let k := i - min start.toNat s.count
        pack s.cfg (color
          ((px[k]?).getD ⟨s.cb (13 + 3 * k), s.cb (14 + 3 * k), s.cb (15 + 3 * k)⟩))
      else s.fbWord i := by
  rw [State.fbWord_render h, State.pixel, State.cbTriple_eq]
  rfl

theorem State.render_of_empty {start stop : BitVec 16} (px : List Triple) (color : Triple → Rgbw)
    (h : s.clamp stop ≤ s.clamp start) : s.render start stop px color = s := by
  have hNone : s.clamp stop - s.clamp start = 0 := by omega
  rw [State.render, State.rangeWords, hNone]
  rfl

/-- A render command reads nothing that it writes, so the second run writes the same words (R59). -/
theorem State.render_render (h : s.fb.wf) (start stop : BitVec 16) (px : List Triple)
    (color : Triple → Rgbw) :
    (s.render start stop px color).render start stop px color = s.render start stop px color := by
  have hFb := Memory.writeList_writeList h (s.clamp start)
    (s.rangeWords (s.clamp start) (s.clamp stop) px color)
  exact congrArg (fun fb => ({ s with fb := fb } : State)) hFb

/-- Settles O20: Calibration is a fill with its scaled correction color, then a started flush. -/
theorem calibrationFillsAndFlushes : Obligations.CalibrationFillsAndFlushes := by
  unfold Obligations.CalibrationFillsAndFlushes
  intro len corr bright s hFb
  exact ⟨_, exec_cal len corr bright s, rfl, State.fbWord_fill hFb _⟩

/-- Settles O21: the render loop with the RGB transform. -/
theorem renderRgbWritesItsRange : Obligations.RenderRgbWritesItsRange := by
  unfold Obligations.RenderRgbWritesItsRange
  intro len corr sat bright start stop px s hFb
  exact ⟨_, exec_rgb len corr sat bright start stop px s, State.render_eq ..,
    State.fbWord_render_pixels hFb start stop px _⟩

/-- Settles O22: the render loop with the HSV transform. -/
theorem renderHsvWritesItsRange : Obligations.RenderHsvWritesItsRange := by
  unfold Obligations.RenderHsvWritesItsRange
  intro len corr sat bright start stop px s hFb
  exact ⟨_, exec_hsv len corr sat bright start stop px s, State.render_eq ..,
    State.fbWord_render_pixels hFb start stop px _⟩

/-- Settles O23: WriteLEDs is a started flush. -/
theorem writeLedsStartsFlush : Obligations.WriteLedsStartsFlush := by
  unfold Obligations.WriteLedsStartsFlush
  exact exec_write

/-- Settles O24: the render loop over an empty range writes nothing. -/
theorem emptyRangeIsNoOp : Obligations.EmptyRangeIsNoOp := by
  unfold Obligations.EmptyRangeIsNoOp
  intro len corr sat bright start stop px s hEmpty
  constructor
  · rw [exec_rgb, State.render_of_empty px _ hEmpty]
  · rw [exec_hsv, State.render_of_empty px _ hEmpty]

/-- Settles O25: both commands are the render loop, with a color function that their own run leaves as it
is. -/
theorem renderIsIdempotent : Obligations.RenderIsIdempotent := by
  unfold Obligations.RenderIsIdempotent
  intro len corr sat bright start stop px s hFb
  exact ⟨⟨_, exec_rgb len corr sat bright start stop px s,
      congrArg Host.Outcome.next (State.render_render hFb start stop px _)⟩,
    ⟨_, exec_hsv len corr sat bright start stop px s,
      congrArg Host.Outcome.next (State.render_render hFb start stop px _)⟩⟩

end Sys2Proof.Machine
end

section
/-!
What a step can do to the state (`10_state.md` section 8). A step that answers a state is a reset, a flush
step, or a change of the framer and the offers with at most one command run after it; the rules about the
configuration, the words sent and the white lane read this off.
-/
namespace Sys2Proof.Machine

variable {s t : State}

theorem dispatch_effect (h : dispatch s = .next t) : t = s ∨ ∃ i, exec i s = .next t := by
  obtain ⟨i, -, hEq⟩ | ⟨-, hEq⟩ := dispatch_cases s
  · exact .inr ⟨i, hEq.symm.trans h⟩
  · exact .inl (Host.Outcome.next.inj (h.symm.trans hEq))

theorem takeStreamByte_effect {b : Byte} (h : takeStreamByte b s = .next t) :
    ∃ u, u = s.withFramerOf u ∧ (t = u ∨ ∃ i, exec i u = .next t) := by
  refine ⟨(s.frameByte b).1, State.frameByte_frame s b, ?_⟩
  unfold takeStreamByte at h
  split at h
  · cases h
  · split at h
    · exact dispatch_effect h
    · exact .inl (Host.Outcome.next.inj h).symm

theorem flushStep_effect (h : flushStep s = .next t) :
    t = (s.tx (s.fbWord s.fptr)).advanceFlush := by
  unfold flushStep at h
  split at h
  · exact (Host.Outcome.next.inj h).symm
  · cases h

theorem applyReset_effect {v : BitVec 32} (h : applyReset v s = .next t) :
    t = s.resetWith (sampleConfig v) := by
  unfold applyReset at h
  split at h
  · exact (Host.Outcome.next.inj h).symm
  · cases h

/-- `u` is `s` but for the framer, the command buffer and what the host still has to offer. -/
def State.Ingress (s u : State) : Prop :=
  u = { s.withFramerOf u with streamIn := u.streamIn, dgramIn := u.dgramIn, turns := u.turns }

/-- What a step that answers a state did: a reset, an accepted word, or an ingress transaction (none at
all included) and at most one command after it. -/
inductive StepEffect (s t : State) : Prop
  | reset (v : BitVec 32) (ts : List Turn) : s.turns = .reset v :: ts →
      t = State.resetWith { s with turns := ts } (sampleConfig v) → StepEffect s t
  | word (ts : List Turn) : s.turns = .accept :: ts → s.phase = .flushing →
      t = (State.tx { s with turns := ts } (s.fbWord s.fptr)).advanceFlush → StepEffect s t
  | ingress (u : State) : s.Ingress u → (t = u ∨ ∃ i, exec i u = .next t) → StepEffect s t

theorem TurnCase.effect {turn : Turn} {ts : List Turn} {o : Host.Outcome State Fault Refusal}
    (hTurn : TurnCase turn { s with turns := ts } o) (hTurns : s.turns = turn :: ts)
    (h : o = .next t) : StepEffect s t := by
  cases hTurn with
  | reset v hv =>
    subst hv
    exact .reset v ts hTurns (applyReset_effect h)
  | illegal _ _ => cases h
  | wait _ _ => exact .ingress { s with turns := ts } rfl (.inl (Host.Outcome.next.inj h).symm)
  | byte b bs _ _ _ _ =>
    obtain ⟨u, hFrame, hRun⟩ := takeStreamByte_effect h
    exact .ingress u (by rw [hFrame]; rfl) hRun
  | datagram d ds _ _ _ _ _ =>
    exact .ingress (State.copyIn { s with turns := ts, dgramIn := ds } d) rfl (dispatch_effect h)
  | word ht _ hFlush =>
    subst ht
    exact .word ts hTurns hFlush (flushStep_effect h)

theorem step_effect (h : step s = .next t) : StepEffect s t := by
  obtain ⟨-, hWait⟩ | ⟨turn, ts, hTurns, hTurn⟩ := step_cases s
  · exact .ingress s rfl (.inl (Host.Outcome.next.inj (h.symm.trans hWait)))
  · exact hTurn.effect hTurns h

theorem State.resetNext_of_reset {v : BitVec 32} {ts : List Turn} (h : s.turns = .reset v :: ts) :
    s.resetNext = true := by
  rw [State.resetNext, h]

/-- The sequencer's own move changes the flush registers alone (R224). -/
theorem State.advanceFlush_frame (s : State) :
    s.advanceFlush = { s with phase := s.advanceFlush.phase, fptr := s.advanceFlush.fptr } := by
  by_cases hLast : s.fptr + 1 = s.count
  · rw [State.advanceFlush_of_last hLast]
  · rw [State.advanceFlush_of_not_last hLast]

/-- A command leaves all but the frame buffer and the flush registers. -/
theorem exec_next_frame {i : Instr} (h : exec i s = .next t) :
    t = { s with fb := t.fb, phase := t.phase, fptr := t.fptr } := by
  obtain ⟨u, hNext, hFrame⟩ := exec_frame i s
  obtain rfl := Host.Outcome.next.inj (hNext.symm.trans h)
  exact hFrame

/-- Settles O58: neither an ingress transaction nor a command touches the configuration or the words sent,
and an accepted word is the one on offer. -/
theorem onlyAcceptSendsWords : Obligations.OnlyAcceptSendsWords := by
  unfold Obligations.OnlyAcceptSendsWords
  intro s t hStep hNoReset
  cases step_effect hStep with
  | reset v ts hTurns _ => simp [State.resetNext_of_reset hTurns] at hNoReset
  | word ts hTurns hFlush hEq =>
    have hFrame := hEq.trans (State.advanceFlush_frame _)
    exact ⟨(congrArg State.cfg hFrame :), (congrArg State.endpoints hFrame :),
      .inr ⟨ts, hTurns, hFlush, (congrArg State.txOut hFrame :)⟩⟩
  | ingress u hIn hRun =>
    have hCfg : u.cfg = s.cfg := (congrArg State.cfg hIn :)
    have hEnd : u.endpoints = s.endpoints := (congrArg State.endpoints hIn :)
    have hTx : u.txOut = s.txOut := (congrArg State.txOut hIn :)
    obtain rfl | ⟨i, hExec⟩ := hRun
    · exact ⟨hCfg, hEnd, .inl hTx⟩
    · have hFrame := exec_next_frame hExec
      exact ⟨(congrArg State.cfg hFrame :).trans hCfg, (congrArg State.endpoints hFrame :).trans hEnd,
        .inl ((congrArg State.txOut hFrame :).trans hTx)⟩

/-! ### The white lane of an RGB strip -/

theorem laneByte_zero (k : BitVec 2) : laneByte k 0#32 = 0#8 := BitVec.extractLsb'_zero

theorem laneByte_laneW_pack {c : Config} (h : legalConfig c = true) (p : Rgbw) :
    laneByte c.laneW (pack c p) = p.w := congrArg Rgbw.w (unpack_pack h p)

theorem scale_zero_left (b : Byte) : scale 0#8 b = 0#8 := by
  simp [scale]

theorem desat_false_w (c : Rgb) (sat : Byte) : (desat false c sat).w = 0#8 := by
  unfold desat
  split
  · rfl
  · split
    · rfl
    · rfl

theorem rgbColor_false_w (corr : Rgb) (sat bright : Byte) (p : Triple) :
    (rgbColor false corr sat bright p).w = 0#8 := by
  change scale (desat false _ _).w bright = 0#8
  rw [desat_false_w, scale_zero_left]

theorem hsvColor_false_w (t : RainbowTable) (corr : Rgb) (sat bright : Byte) (p : Triple) :
    (hsvColor t false corr sat bright p).w = 0#8 := by
  change scale (desat false _ _).w (brightEff _ bright) = 0#8
  rw [desat_false_w, scale_zero_left]

theorem State.whiteDark.of_eq (h : s.whiteDark) (hCfg : t.cfg = s.cfg) (hFb : t.fb = s.fb) :
    t.whiteDark := by
  intro hWhite i
  rw [State.fbWord, hFb, hCfg]
  exact h (hCfg ▸ hWhite) i

/-- A frame buffer whose new words all carry no white stays dark. -/
theorem State.whiteDark.of_words (h : s.whiteDark) (hLegal : legalConfig s.cfg = true)
    (hCfg : t.cfg = s.cfg)
    (hWords : s.cfg.hasWhite = false → ∀ i, t.fbWord i = s.fbWord i ∨
      ∃ p : Rgbw, p.w = 0#8 ∧ t.fbWord i = pack s.cfg p) : t.whiteDark := by
  intro hWhite i
  rw [hCfg] at hWhite ⊢
  obtain hOld | ⟨p, hDark, hNew⟩ := hWords hWhite i
  · rw [hOld]
    exact h hWhite i
  · rw [hNew, laneByte_laneW_pack hLegal, hDark]

theorem State.whiteDark.fill (h : s.whiteDark) (hLegal : legalConfig s.cfg = true) (hFb : s.fb.wf)
    {p : Rgbw} (hDark : p.w = 0#8) : (s.fill (pack s.cfg p)).whiteDark := by
  refine h.of_words hLegal rfl fun _ i => ?_
  rw [State.fbWord_fill hFb]
  split
  · exact .inr ⟨p, hDark, rfl⟩
  · exact .inl rfl

theorem State.whiteDark.render (h : s.whiteDark) (hLegal : legalConfig s.cfg = true) (hFb : s.fb.wf)
    (start stop : BitVec 16) (px : List Triple) {color : Triple → Rgbw}
    (hDark : s.cfg.hasWhite = false → ∀ p, (color p).w = 0#8) :
    (s.render start stop px color).whiteDark := by
  refine h.of_words hLegal rfl fun hWhite i => ?_
  rw [State.fbWord_render hFb]
  split
  · exact .inr ⟨_, hDark hWhite _, rfl⟩
  · exact .inl rfl

theorem exec_keeps_whiteDark {i : Instr} (h : s.whiteDark) (hLegal : legalConfig s.cfg = true)
    (hFb : s.fb.wf) (hNext : exec i s = .next t) : t.whiteDark := by
  cases i with
  | cal len corr bright =>
    obtain rfl := Host.Outcome.next.inj hNext
    exact (h.fill hLegal hFb (p := calColor corr bright) rfl).of_eq rfl rfl
  | rgb len corr sat bright start stop px =>
    obtain rfl := Host.Outcome.next.inj hNext
    exact h.render hLegal hFb start stop px fun hWhite p => by rw [hWhite, rgbColor_false_w]
  | hsv len corr sat bright start stop px =>
    obtain rfl := Host.Outcome.next.inj hNext
    exact h.render hLegal hFb start stop px fun hWhite p => by rw [hWhite, hsvColor_false_w]
  | write len =>
    obtain rfl := Host.Outcome.next.inj hNext
    exact h.of_eq rfl rfl

/-- Settles O57: the frame buffer is cleared by a reset, kept by a flush step, and written by a command
through colors without white. -/
theorem stepKeepsWhiteLaneDark : Obligations.StepKeepsWhiteLaneDark := by
  unfold Obligations.StepKeepsWhiteLaneDark
  intro s t hInv hDark hStep
  cases step_effect hStep with
  | reset v ts _ hEq =>
    subst hEq
    exact fun _ _ => laneByte_zero _
  | word ts _ _ hEq =>
    have hFrame := hEq.trans (State.advanceFlush_frame _)
    exact hDark.of_eq (congrArg State.cfg hFrame :) (congrArg State.fb hFrame :)
  | ingress u hIn hRun =>
    have hCfg : u.cfg = s.cfg := (congrArg State.cfg hIn :)
    have hFb : u.fb = s.fb := (congrArg State.fb hIn :)
    have hDark : u.whiteDark := hDark.of_eq hCfg hFb
    obtain rfl | ⟨i, hExec⟩ := hRun
    · exact hDark
    · exact exec_keeps_whiteDark hDark (hCfg ▸ hInv.legal) (hFb ▸ hInv.fb.1) hExec

/-! ### Steps of a flush -/

/-- What a step leaves alone while a flush runs. -/
def State.FlushFrame (s t : State) : Prop :=
  t.fb = s.fb ∧ t.buf = s.buf ∧ t.fstate = s.fstate ∧ t.idx = s.idx ∧ t.dlen = s.dlen ∧
    t.ctype = s.ctype ∧ t.streamIn = s.streamIn ∧ t.dgramIn = s.dgramIn

theorem State.FlushFrame.waited (s : State) (ts : List Turn) : s.FlushFrame { s with turns := ts } :=
  ⟨rfl, rfl, rfl, rfl, rfl, rfl, rfl, rfl⟩

theorem State.FlushFrame.advance (s : State) (v : Word) :
    s.FlushFrame (s.tx v).advanceFlush := by
  rw [State.advanceFlush_frame]
  exact ⟨rfl, rfl, rfl, rfl, rfl, rfl, rfl, rfl⟩

/-- Neither ingress port is ready in a flush, so a turn is a wait or an accepted word. -/
theorem TurnCase.flushFrame {turn : Turn} {o : Host.Outcome State Fault Refusal}
    (hTurn : TurnCase turn s o) (hFlush : s.phase = .flushing) (hNoReset : ∀ v, turn ≠ .reset v)
    (h : o = .next t) : s.FlushFrame t := by
  have hNotReady : s.phase ≠ .ready := by simp [hFlush]
  cases hTurn with
  | reset v hv => exact absurd hv (hNoReset v)
  | illegal _ _ => cases h
  | wait _ _ =>
    cases h
    exact State.FlushFrame.waited s s.turns
  | byte b bs _ _ _ hReady => exact absurd hReady hNotReady
  | datagram d ds _ _ _ hReady _ => exact absurd hReady hNotReady
  | word _ _ _ =>
    rw [flushStep_effect h]
    exact State.FlushFrame.advance s _

theorem State.not_reset_of_resetNext {turn : Turn} {ts : List Turn} (hTurns : s.turns = turn :: ts)
    (h : s.resetNext = false) (v : BitVec 32) : turn ≠ .reset v := by
  rintro rfl
  simp [State.resetNext_of_reset hTurns] at h

/-- Settles O59: a wait changes nothing, and an accepted word the sequencer and the words sent. -/
theorem flushLeavesBuffersAlone : Obligations.FlushLeavesBuffersAlone := by
  unfold Obligations.FlushLeavesBuffersAlone
  intro s t hStep hFlush hNoReset
  obtain ⟨-, hWait⟩ | ⟨turn, ts, hTurns, hTurn⟩ := step_cases s
  · obtain rfl := Host.Outcome.next.inj (hWait.symm.trans hStep)
    exact State.FlushFrame.waited s s.turns
  · exact hTurn.flushFrame hFlush (State.not_reset_of_resetNext hTurns hNoReset) hStep

end Sys2Proof.Machine
end

section
/-!
`ctype` is written and never read (`10_state.md` R30). Each operation, run with another `ctype`, does the
same up to `ctype`; the type byte even makes the two runs agree again.
-/
namespace Sys2Proof.Machine

/-- The same outcome, but for `ctype`. -/
def UpToCtype (o o' : Host.Outcome State Fault Refusal) : Prop :=
  (∀ t, o = .next t → ∃ c', o' = .next (t.setCtype c')) ∧
    (∀ f, o = .fault f → o' = .fault f) ∧ (∀ r, o = .refused r → o' = .refused r)

theorem UpToCtype.next (s : State) (c : BitVec 2) : UpToCtype (.next s) (.next (s.setCtype c)) :=
  ⟨fun _ h => ⟨c, by rw [Host.Outcome.next.inj h]⟩, nofun, nofun⟩

theorem UpToCtype.fault (f : Fault) : UpToCtype (.fault f) (.fault f) :=
  ⟨nofun, fun _ h => h, nofun⟩

theorem UpToCtype.refused (r : Refusal) : UpToCtype (.refused r) (.refused r) :=
  ⟨nofun, nofun, fun _ h => h⟩

/-- Two runs that take the same branch. -/
theorem UpToCtype.ite (p : Prop) [Decidable p] {a a' b b' : Host.Outcome State Fault Refusal}
    (ha : UpToCtype a a') (hb : UpToCtype b b') :
    UpToCtype (if p then a else b) (if p then a' else b') := by
  split
  · exact ha
  · exact hb

variable (s : State) (c : BitVec 2)

theorem exec_setCtype (i : Instr) : UpToCtype (exec i s) (exec i (s.setCtype c)) := by
  cases i with
  | cal len corr bright => exact .next (s.fill (pack s.cfg (calColor corr bright))).startFlush c
  | rgb len corr sat bright start stop px =>
    exact .next (s.render start stop px (rgbColor s.cfg.hasWhite corr sat bright)) c
  | hsv len corr sat bright start stop px =>
    exact .next (s.render start stop px (hsvColor s.endpoints s.cfg.hasWhite corr sat bright)) c
  | write len => exact .next s.startFlush c

theorem dispatch_setCtype : UpToCtype (dispatch s) (dispatch (s.setCtype c)) := by
  have hBytes : (s.setCtype c).cbBytes = s.cbBytes := rfl
  unfold dispatch
  rw [hBytes]
  split
  · exact exec_setCtype s c _
  · exact .next s c

theorem State.checkComplete_setCtype :
    (s.setCtype c).checkComplete = (s.checkComplete.1.setCtype c, s.checkComplete.2) := by
  have hTest : (s.setCtype c).complete = s.complete := rfl
  unfold State.checkComplete
  rw [hTest]
  split
  · rfl
  · rfl

theorem State.frameByte_setCtype (b : Byte) :
    ∃ c', (s.setCtype c).frameByte b = ((s.frameByte b).1.setCtype c', (s.frameByte b).2) := by
  cases hState : s.fstate with
  | idle =>
    rw [State.frameByte_of_idle hState, State.frameByte_of_idle (s := s.setCtype c) hState]
    by_cases hb : b = 0#8
    · subst hb
      exact ⟨c, by rw [State.byteIdle_marker, State.byteIdle_marker]; rfl⟩
    · exact ⟨c, by rw [State.byteIdle_of_ne _ hb, State.byteIdle_of_ne _ hb]⟩
  | gotStart =>
    rw [State.frameByte_of_gotStart hState, State.frameByte_of_gotStart (s := s.setCtype c) hState]
    obtain hb | hb := Nat.lt_or_ge b.toNat 4
    · exact ⟨b.setWidth 2, by rw [State.byteType_of_lt _ hb, State.byteType_of_lt _ hb]; rfl⟩
    · exact ⟨c, by rw [State.byteType_of_four_le _ hb, State.byteType_of_four_le _ hb]; rfl⟩
  | gotType =>
    rw [State.frameByte_of_gotType hState, State.frameByte_of_gotType (s := s.setCtype c) hState]
    exact ⟨c, rfl⟩
  | gotLenHi =>
    rw [State.frameByte_of_gotLenHi hState, State.frameByte_of_gotLenHi (s := s.setCtype c) hState]
    exact ⟨c, State.checkComplete_setCtype (s.byteLenLo b) c⟩
  | collecting =>
    rw [State.frameByte_of_collecting hState,
      State.frameByte_of_collecting (s := s.setCtype c) hState]
    exact ⟨c, State.checkComplete_setCtype (s.byteCollect b) c⟩

theorem takeStreamByte_setCtype (b : Byte) :
    UpToCtype (takeStreamByte b s) (takeStreamByte b (s.setCtype c)) := by
  obtain ⟨c', hFrame⟩ := s.frameByte_setCtype c b
  unfold takeStreamByte
  rw [hFrame, State.setCtype_fstate, State.setCtype_cap, State.setCtype_idx]
  exact .ite _ (.fault _) (.ite _ (dispatch_setCtype _ c') (.next _ c'))

theorem State.advanceFlush_setCtype : (s.setCtype c).advanceFlush = s.advanceFlush.setCtype c := by
  by_cases hLast : s.fptr + 1 = s.count
  · rw [State.advanceFlush_of_last hLast, State.advanceFlush_of_last (s := s.setCtype c) hLast]
    rfl
  · rw [State.advanceFlush_of_not_last hLast, State.advanceFlush_of_not_last (s := s.setCtype c) hLast]
    rfl

theorem flushStep_setCtype : UpToCtype (flushStep s) (flushStep (s.setCtype c)) := by
  have hTx : ((s.setCtype c).tx ((s.setCtype c).fbWord s.fptr)).advanceFlush =
      (s.tx (s.fbWord s.fptr)).advanceFlush.setCtype c :=
    State.advanceFlush_setCtype (s.tx (s.fbWord s.fptr)) c
  unfold flushStep
  rw [State.setCtype_fptr, State.setCtype_count, hTx]
  exact .ite _ (.next _ c) (.fault _)

theorem streamTurn_setCtype : UpToCtype (streamTurn s) (streamTurn (s.setCtype c)) := by
  unfold streamTurn
  rw [State.setCtype_streamIn]
  split
  · exact .next s c
  · exact .ite _ (takeStreamByte_setCtype _ c _) (.next s c)

theorem dgramTurn_setCtype : UpToCtype (dgramTurn s) (dgramTurn (s.setCtype c)) := by
  unfold dgramTurn
  rw [State.setCtype_dgramIn]
  split
  · exact .next s c
  · exact .ite _ (dispatch_setCtype _ c) (.next s c)

theorem takeTurn_setCtype (turn : Turn) :
    UpToCtype (takeTurn turn s) (takeTurn turn (s.setCtype c)) := by
  cases turn with
  | reset v => exact .ite _ (.next (s.resetWith (sampleConfig v)) 0#2) (.refused _)
  | stream => exact .ite _ (streamTurn_setCtype s c) (.refused _)
  | dgram => exact .ite _ (dgramTurn_setCtype s c) (.refused _)
  | accept => exact .ite _ (.ite _ (flushStep_setCtype s c) (.next s c)) (.refused _)

/-- Settles O60: one turn runs the same up to `ctype`, and without a turn nothing runs. -/
theorem ctypeIsUnobservable : Obligations.CtypeIsUnobservable := by
  unfold Obligations.CtypeIsUnobservable
  intro s c
  change UpToCtype (step s) (step (s.setCtype c))
  unfold step nextStep
  rw [State.setCtype_turns]
  split
  · exact .next s c
  · exact takeTurn_setCtype _ c _

end Sys2Proof.Machine
end

section
/-!
The color engine as numbers (`42_color_transform.md` R170 to R185). Every law is one of the quotients that
`Laws/Color.lean` gives each function, or the order of the stages.
-/
namespace Sys2Proof.Machine

theorem scale_comm (a b : Byte) : scale a b = scale b a := by
  rw [scale, scale, Nat.mul_comm]

theorem scale_zero_right (a : Byte) : scale a 0#8 = 0#8 := by
  rw [scale_comm, scale_zero_left]

theorem scale_255_right (a : Byte) : scale a 255#8 = a := by
  apply BitVec.eq_of_toNat_eq
  rw [scale_toNat]
  exact Nat.mul_div_cancel a.toNat (by decide)

theorem scale_255_left (b : Byte) : scale 255#8 b = b := by
  rw [scale_comm, scale_255_right]

theorem scale_le_left (a b : Byte) : (scale a b).toNat ≤ a.toNat := by
  rw [scale_toNat]
  exact mul_div_255_le a.toNat b.toNat (by omega)

theorem scale_le_right (a b : Byte) : (scale a b).toNat ≤ b.toNat := by
  rw [scale_comm]
  exact scale_le_left b a

theorem scale_mono {a a' b b' : Byte} (ha : a.toNat ≤ a'.toNat) (hb : b.toNat ≤ b'.toNat) :
    (scale a b).toNat ≤ (scale a' b').toNat := by
  rw [scale_toNat, scale_toNat]
  exact Nat.div_le_div_right (Nat.mul_le_mul ha hb)

theorem scale_eq_zero_iff (a b : Byte) : scale a b = 0#8 ↔ a.toNat * b.toNat < 255 := by
  rw [← BitVec.toNat_inj, scale_toNat, BitVec.toNat_ofNat, Nat.zero_mod, Nat.div_eq_zero_iff]
  omega

/-- Settles O8: each law is the law of the exact quotient. -/
theorem scaleLaws : Obligations.ScaleLaws := by
  unfold Obligations.ScaleLaws
  exact ⟨scale_255_right, scale_zero_right, scale_comm,
    fun a b => Nat.le_min.2 ⟨scale_le_left a b, scale_le_right a b⟩,
    fun _ _ _ _ ha hb => scale_mono ha hb, scale_255_left, scale_eq_zero_iff⟩

/-! ### The rainbow -/

theorem hueSector_add_one (h : Byte) :
    hueSector h + 1#3 = BitVec.ofNat 3 ((h.toNat / 32 + 1) % 8) := by
  rw [hueSector_eq, ← BitVec.ofNat_add]
  apply BitVec.eq_of_toNat_eq
  simp only [BitVec.toNat_ofNat]
  omega

/-- The rainbow color with its sector and its third as numbers (R172, R175). -/
theorem rainbow_eq (t : RainbowTable) (h : Byte) :
    let third := h.toNat % 32 * 8 / 3
    let a := endpoint t (BitVec.ofNat 3 (h.toNat / 32))
    let b := endpoint t (BitVec.ofNat 3 ((h.toNat / 32 + 1) % 8))
    rainbow t h = ⟨interpolate third a.r b.r, interpolate third a.g b.g, interpolate third a.b b.b⟩ := by
  intro third a b
  rw [rainbow, hueSector_add_one, hueSector_eq, hueThird_eq]

theorem interpolate_zero (a b : Byte) : interpolate 0 a b = a := by
  apply BitVec.eq_of_toNat_eq
  rw [(interpolate_spec a b (Nat.zero_le 85)).1]
  omega

/-- At the start of a sector nothing of the next endpoint is mixed in. -/
theorem rainbow_of_sector_start (t : RainbowTable) {h : Byte} (hStart : h.toNat % 32 = 0) :
    rainbow t h = endpoint t (BitVec.ofNat 3 (h.toNat / 32)) := by
  rw [rainbow_eq, hStart]
  simp only [Nat.zero_mul, Nat.zero_div, interpolate_zero]

/-- Settles O9: each channel is the weighted mean of its endpoints, and a sector starts at its endpoint. -/
theorem rainbowInterpolatesExactly : Obligations.RainbowInterpolatesExactly := by
  unfold Obligations.RainbowInterpolatesExactly
  intro t h third a b out
  have hThird : third ≤ 85 := by omega
  have hChannel (x y : Byte) :
      (interpolate third x y).toNat = (x.toNat * (85 - third) + y.toNat * third) / 85 ∧
      min x.toNat y.toNat ≤ (interpolate third x y).toNat ∧
      (interpolate third x y).toNat ≤ max x.toNat y.toNat := by
    obtain ⟨hEq, hLo, hHi⟩ := interpolate_spec x y hThird
    exact ⟨hEq, hEq ▸ hLo, hEq ▸ hHi⟩
  have hOut : out = _ := rainbow_eq t h
  refine ⟨?_, ?_, ?_, rainbow_of_sector_start t⟩
  · rw [hOut]
    exact hChannel a.r b.r
  · rw [hOut]
    exact hChannel a.g b.g
  · rw [hOut]
    exact hChannel a.b b.b

/-- Settles O10: the eight hues are the starts of the eight sectors. -/
theorem rainbowBreakpoints : Obligations.RainbowBreakpoints := by
  unfold Obligations.RainbowBreakpoints
  intro t
  exact ⟨rainbow_of_sector_start t rfl, rainbow_of_sector_start t rfl, rainbow_of_sector_start t rfl,
    rainbow_of_sector_start t rfl, rainbow_of_sector_start t rfl, rainbow_of_sector_start t rfl,
    rainbow_of_sector_start t rfl, rainbow_of_sector_start t rfl⟩

/-! ### Value squaring -/

theorem vsq_zero : vsq 0#8 = 0#8 := by decide

theorem vsq_toNat (v : Byte) :
    (vsq v).toNat =
      if v.toNat * v.toNat / 255 = 0 ∧ v ≠ 0#8 then 1 else v.toNat * v.toNat / 255 := by
  have hZero : scale v v = 0#8 ↔ v.toNat * v.toNat / 255 = 0 := by
    rw [scale_eq_zero_iff, Nat.div_eq_zero_iff]
    omega
  simp only [vsq, hZero]
  split
  · rfl
  · exact scale_toNat v v

/-- The squared value, but at least 1 where the value is not 0. -/
theorem vsq_toNat_of_ne_zero {v : Byte} (h : v ≠ 0#8) :
    (vsq v).toNat = max 1 (v.toNat * v.toNat / 255) := by
  rw [vsq_toNat]
  by_cases hFloor : v.toNat * v.toNat / 255 = 0
  · rw [if_pos ⟨hFloor, h⟩, hFloor]
    rfl
  · rw [if_neg fun hBoth => hFloor hBoth.1]
    omega

theorem vsq_mono {v u : Byte} (h : v.toNat ≤ u.toNat) : (vsq v).toNat ≤ (vsq u).toNat := by
  by_cases hv : v = 0#8
  · rw [hv, vsq_zero]
    exact Nat.zero_le _
  · have hu : u ≠ 0#8 := by bv_omega
    have hSquare := Nat.div_le_div_right (c := 255) (Nat.mul_le_mul h h)
    rw [vsq_toNat_of_ne_zero hv, vsq_toNat_of_ne_zero hu]
    omega

/-- Settles O11: the formula is `vsq_toNat`, and a maximum with 1 is monotone in the square. -/
theorem valueSquaring : Obligations.ValueSquaring := by
  unfold Obligations.ValueSquaring
  exact ⟨vsq_toNat, fun _ _ => vsq_mono⟩

/-! ### Desaturation -/

theorem desat_255 (hasWhite : Bool) (c : Rgb) : desat hasWhite c 255#8 = ⟨c.r, c.g, c.b, 0#8⟩ :=
  if_pos rfl

theorem desat_true_zero (c : Rgb) : desat true c 0#8 = ⟨0#8, 0#8, 0#8, 255#8⟩ := rfl

theorem desat_false_zero (c : Rgb) : desat false c 0#8 = ⟨255#8, 255#8, 255#8, 0#8⟩ := rfl

/-- Settles O12: the two fixed points first, and BLEND with or without EXTRACT otherwise. -/
theorem desatCases : Obligations.DesatCases := by
  unfold Obligations.DesatCases
  intro c σ
  refine ⟨fun hasWhite hFull => ?_, fun hZero => ?_, fun hFull hZero => ?_⟩
  · rw [hFull, desat_255]
  · rw [hZero]
    exact ⟨desat_true_zero c, desat_false_zero c⟩
  · simp only [desat, if_neg hFull, if_neg hZero]
    exact ⟨rfl, rfl⟩

/-- A gray moves by at most 1 under BLEND: the two parts are those of one product of 255. -/
theorem gray_blend_bounds {x σ : Nat} (hσ : σ ≤ 255) :
    x * σ / 255 + x * (255 - σ) / 255 ≤ x ∧ x ≤ x * σ / 255 + x * (255 - σ) / 255 + 1 := by
  have hSplit : x * σ + x * (255 - σ) = x * 255 := by
    rw [← Nat.mul_add, Nat.add_sub_cancel' hσ]
  omega

/-- Settles O13: each channel is the sum of its two quotients, which the quotient of the sum bounds. -/
theorem blendNeverOverflows : Obligations.BlendNeverOverflows := by
  unfold Obligations.BlendNeverOverflows
  intro c σ avg part
  have hAvg : avg = (average c).toNat := (average_toNat c).symm
  have hChannel (x : Byte) : (blendChannel (average c) σ x).toNat = part x.toNat := by
    rw [(blendChannel_spec _ _ _).1, ← hAvg]
  refine ⟨hChannel c.r, hChannel c.g, hChannel c.b, fun x => ?_, fun hrg hgb => ?_⟩
  · obtain ⟨-, hBound⟩ := blendChannel_spec (average c) σ x
    rw [← hAvg] at hBound
    exact ⟨Nat.div_add_div_le_add_div, by omega⟩
  · have hGray : avg = c.r.toNat := by
      rw [← hrg] at hgb
      simp only [avg, ← hrg, ← hgb]
      omega
    have hPart : (blend c σ).r.toNat = c.r.toNat * σ.toNat / 255 + avg * (255 - σ.toNat) / 255 :=
      hChannel c.r
    rw [hPart, hGray]
    exact gray_blend_bounds (by omega)

/-- Settles O14: the minimum is at most each channel, and it is one of them. -/
theorem extractMovesMinimum : Obligations.ExtractMovesMinimum := by
  unfold Obligations.ExtractMovesMinimum
  intro c m
  have hMin : (minByte c.r (minByte c.g c.b)).toNat = m := by
    rw [minByte_toNat, minByte_toNat]
  have hChannel (x : Byte) (hx : m ≤ x.toNat) :
      (x - minByte c.r (minByte c.g c.b)).toNat = x.toNat - m := by
    rw [BitVec.toNat_sub_of_le (by rw [BitVec.le_def, hMin]; exact hx), hMin]
  have hr := hChannel c.r (by omega)
  have hg := hChannel c.g (by omega)
  have hb := hChannel c.b (by omega)
  have hZero {x : Byte} {k : Nat} (hx : x.toNat = k - m) (hk : k = m) : x = 0#8 := by
    apply BitVec.eq_of_toNat_eq
    rw [hx, hk, Nat.sub_self]
    rfl
  have hSome : c.r.toNat = m ∨ c.g.toNat = m ∨ c.b.toNat = m := by omega
  exact ⟨hMin, hr, hg, hb, hSome.imp (hZero hr) (Or.imp (hZero hg) (hZero hb))⟩

/-! ### The two transforms -/

/-- Settles O15: each stage is one exact quotient. -/
theorem scalingTailRoundsPerStage : Obligations.ScalingTailRoundsPerStage := by
  unfold Obligations.ScalingTailRoundsPerStage
  intro hasWhite corr sat bright c d out
  have hTwice (x corrByte : Byte) : (scale (scale x bright) corrByte).toNat =
      x.toNat * bright.toNat / 255 * corrByte.toNat / 255 := by
    rw [scale_toNat, scale_toNat]
  exact ⟨hTwice d.r corr.r, hTwice d.g corr.g, hTwice d.b corr.b, scale_toNat d.w bright⟩

theorem hsvx_eq_rgbx (t : RainbowTable) (hasWhite : Bool) (corr : Rgb) (sat bright h s v : Byte) :
    hsvx t hasWhite corr sat bright h s v =
      rgbx hasWhite corr (satEff s sat) (brightEff v bright) (rainbow t h) := rfl

/-- Settles O16: the effective saturation and brightness are the two bytes. -/
theorem hsvTransformIsRgbOfRainbow : Obligations.HsvTransformIsRgbOfRainbow := by
  unfold Obligations.HsvTransformIsRgbOfRainbow
  intro t hasWhite corr sat bright h s v
  exact ⟨satEff s sat, brightEff v bright, scale_toNat s sat, scale_toNat (vsq v) bright,
    hsvx_eq_rgbx t hasWhite corr sat bright h s v⟩

theorem rgbx_true_zero (corr : Rgb) (bright : Byte) (c : Rgb) :
    rgbx true corr 0#8 bright c = ⟨0#8, 0#8, 0#8, bright⟩ := by
  simp only [rgbx, desat_true_zero, brighten, correct, scale_zero_left, scale_255_left]

theorem rgbx_false_zero (corr : Rgb) (bright : Byte) (c : Rgb) :
    rgbx false corr 0#8 bright c =
      ⟨scale bright corr.r, scale bright corr.g, scale bright corr.b, 0#8⟩ := by
  simp only [rgbx, desat_false_zero, brighten, correct, scale_zero_left, scale_255_left]

/-- Settles O17: zero saturation is a fixed point of DESAT, and the HSV transform is the RGB one. -/
theorem zeroSaturationIgnoresColor : Obligations.ZeroSaturationIgnoresColor := by
  unfold Obligations.ZeroSaturationIgnoresColor
  refine ⟨fun corr bright c => ⟨rgbx_true_zero corr bright c, rgbx_false_zero corr bright c⟩,
    fun t corr sat bright h s v hProduct => ?_⟩
  have hSat : satEff s sat = 0#8 := (scale_eq_zero_iff s sat).2 hProduct
  rw [hsvx_eq_rgbx, hsvx_eq_rgbx, hSat]
  exact ⟨rgbx_true_zero .., rgbx_false_zero ..⟩

theorem rgbx_dark (hasWhite : Bool) (corr : Rgb) (sat : Byte) (c : Rgb) :
    rgbx hasWhite corr sat 0#8 c = ⟨0#8, 0#8, 0#8, 0#8⟩ := by
  simp only [rgbx, brighten, correct, scale_zero_left, scale_zero_right]

/-- Settles O18: value 0 makes the brightness 0, and 255 is neutral at every stage. -/
theorem blackAndPassThrough : Obligations.BlackAndPassThrough := by
  unfold Obligations.BlackAndPassThrough
  refine ⟨fun t hasWhite corr sat bright h s => ?_, fun hasWhite c => ?_⟩
  · rw [hsvx_eq_rgbx, brightEff, vsq_zero, scale_zero_left, rgbx_dark]
  · simp only [rgbx, desat_255, brighten, correct, scale_255_right]

end Sys2Proof.Machine
end

section
/-!
One turn of the schedule, port by port (`10_state.md` R38, `60_exceptions.md` R252 to R254). A turn is a
transaction when its port is ready and something is offered; every other turn is a wait, and one rule says
what all waits do.
-/
namespace Sys2Proof.Machine

variable {s : State}

theorem step_of_turns {turn : Turn} {ts : List Turn} (h : s.turns = turn :: ts) :
    step s = takeTurn turn { s with turns := ts } := by
  rw [step, nextStep, h]

theorem step_of_no_turns (h : s.turns = []) : step s = .next s := by
  rw [step, nextStep, h]

theorem streamTurn_of_ready {b : Byte} {bs : List Byte} (hIn : s.streamIn = b :: bs)
    (hReady : s.phase = .ready) : streamTurn s = takeStreamByte b { s with streamIn := bs } := by
  rw [streamTurn, hIn]
  exact if_pos (decide_eq_true hReady)

theorem dgramTurn_of_ready {d : List Byte} {ds : List (List Byte)} (hIn : s.dgramIn = d :: ds)
    (hReady : s.phase = .ready) (hIdle : s.fstate = .idle) :
    dgramTurn s = takeDatagram d { s with dgramIn := ds } := by
  rw [dgramTurn, hIn]
  exact if_pos (decide_eq_true ⟨hReady, hIdle⟩)

theorem step_stream {b : Byte} {bs : List Byte} {ts : List Turn} (hLegal : legalConfig s.cfg = true)
    (hTurns : s.turns = .stream :: ts) (hIn : s.streamIn = b :: bs) (hReady : s.phase = .ready) :
    step s = takeStreamByte b { s with turns := ts, streamIn := bs } := by
  rw [step_of_turns hTurns, takeTurn, if_pos hLegal]
  exact streamTurn_of_ready (s := { s with turns := ts }) hIn hReady

section StreamSteps

variable {b : Byte} {bs : List Byte} {ts : List Turn} (hLegal : legalConfig s.cfg = true)
  (hTurns : s.turns = .stream :: ts) (hIn : s.streamIn = b :: bs) (hReady : s.phase = .ready)
include hLegal hTurns hIn hReady

theorem step_idle (hState : s.fstate = .idle) :
    step s = .next (State.byteIdle { s with turns := ts, streamIn := bs } b) := by
  rw [step_stream hLegal hTurns hIn hReady]
  exact takeStreamByte_of_idle (s := { s with turns := ts, streamIn := bs }) hState b

theorem step_gotStart (hState : s.fstate = .gotStart) :
    step s = .next (State.byteType { s with turns := ts, streamIn := bs } b) := by
  rw [step_stream hLegal hTurns hIn hReady]
  exact takeStreamByte_of_gotStart (s := { s with turns := ts, streamIn := bs }) hState b

theorem step_gotType (hState : s.fstate = .gotType) :
    step s = .next (State.byteLenHi { s with turns := ts, streamIn := bs } b) := by
  rw [step_stream hLegal hTurns hIn hReady]
  exact takeStreamByte_of_gotType (s := { s with turns := ts, streamIn := bs }) hState b

theorem step_gotLenHi (hState : s.fstate = .gotLenHi) :
    step s =
      let u := State.byteLenLo { s with turns := ts, streamIn := bs } b
      if 4 = (s.dlen ||| b.setWidth 16).toNat ∨ 4 = s.cap then dispatch u.toIdle else .next u := by
  rw [step_stream hLegal hTurns hIn hReady]
  exact takeStreamByte_of_gotLenHi (s := { s with turns := ts, streamIn := bs }) hState b

theorem step_collecting (hState : s.fstate = .collecting) (hIdx : s.idx < s.cap) :
    step s =
      let u := State.byteCollect { s with turns := ts, streamIn := bs } b
      if s.idx + 1 = s.dlen.toNat ∨ s.idx + 1 = s.cap then dispatch u.toIdle else .next u := by
  rw [step_stream hLegal hTurns hIn hReady]
  exact takeStreamByte_of_collecting (s := { s with turns := ts, streamIn := bs }) hState hIdx b

end StreamSteps

theorem step_dgram {d : List Byte} {ds : List (List Byte)} {ts : List Turn}
    (hLegal : legalConfig s.cfg = true) (hTurns : s.turns = .dgram :: ts) (hIn : s.dgramIn = d :: ds)
    (hReady : s.phase = .ready) (hIdle : s.fstate = .idle) :
    step s = takeDatagram d { s with turns := ts, dgramIn := ds } := by
  rw [step_of_turns hTurns, takeTurn, if_pos hLegal]
  exact dgramTurn_of_ready (s := { s with turns := ts }) hIn hReady hIdle

theorem step_accept {ts : List Turn} (hLegal : legalConfig s.cfg = true)
    (hTurns : s.turns = .accept :: ts) (hFlush : s.phase = .flushing) (hPtr : s.fptr < s.count) :
    step s = .next (State.tx { s with turns := ts } (s.fbWord s.fptr)).advanceFlush := by
  rw [step_of_turns hTurns, takeTurn, if_pos hLegal, acceptTurn]
  exact (if_pos (decide_eq_true hFlush)).trans (flushStep_of_lt hPtr)

theorem step_reset {v : BitVec 32} {ts : List Turn} (hTurns : s.turns = .reset v :: ts) :
    step s = applyReset v { s with turns := ts } := step_of_turns hTurns

/-! ### Waits -/

theorem State.waiting_stream_iff {ts : List Turn} (h : s.turns = .stream :: ts) :
    s.waiting = true ↔ s.streamIn = [] ∨ s.phase ≠ .ready := by
  simp [State.waiting, h, State.streamReady]

theorem State.waiting_dgram_iff {ts : List Turn} (h : s.turns = .dgram :: ts) :
    s.waiting = true ↔ s.dgramIn = [] ∨ ¬(s.phase = .ready ∧ s.fstate = .idle) := by
  simp [State.waiting, h, State.dgramReady, imp_iff_not_or]

theorem State.waiting_accept_iff {ts : List Turn} (h : s.turns = .accept :: ts) :
    s.waiting = true ↔ s.phase ≠ .flushing := by
  simp [State.waiting, h, State.txValid]

theorem State.waiting_of_no_turns (h : s.turns = []) : s.waiting = true := by
  rw [State.waiting, h]

theorem TurnCase.of_waiting {turn : Turn} {o : Host.Outcome State Fault Refusal}
    (hTurn : TurnCase turn s o) (hLegal : legalConfig s.cfg = true)
    (hWait : State.waiting { s with turns := turn :: s.turns } = true) : o = .next s := by
  cases hTurn with
  | reset v hv =>
    subst hv
    cases hWait
  | illegal hIllegal _ => simp [hIllegal] at hLegal
  | wait _ _ => rfl
  | byte b bs ht _ hIn hReady =>
    subst ht
    have := (State.waiting_stream_iff rfl).1 hWait
    simp [hIn, hReady] at this
  | datagram d ds ht _ hIn hReady hIdle =>
    subst ht
    have := (State.waiting_dgram_iff rfl).1 hWait
    simp [hIn, hReady, hIdle] at this
  | word ht _ hFlush =>
    subst ht
    have := (State.waiting_accept_iff rfl).1 hWait
    exact absurd hFlush this

/-- A wait uses up its turn and nothing else (R253, R254). -/
theorem step_of_waiting (hLegal : legalConfig s.cfg = true) (hWait : s.waiting = true) :
    step s = .next { s with turns := s.turns.tail } := by
  obtain ⟨hNone, hStep⟩ | ⟨turn, ts, hTurns, hTurn⟩ := step_cases s
  · rw [hStep, hNone, List.tail_nil, ← hNone]
  · rw [hTurns]
    refine hTurn.of_waiting hLegal ?_
    change State.waiting { s with turns := turn :: ts } = true
    rwa [← hTurns]

/-- Settles O50: the rule of all waits. -/
theorem waitingHoldsAllState : Obligations.WaitingHoldsAllState := by
  unfold Obligations.WaitingHoldsAllState
  exact fun _ => step_of_waiting

/-- Settles O38: a byte is taken when the port is ready, and all else is a wait. -/
theorem streamTurnNeedsReady : Obligations.StreamTurnNeedsReady := by
  unfold Obligations.StreamTurnNeedsReady
  intro s ts hLegal hTurns
  refine ⟨fun b bs hIn hReady => step_stream hLegal hTurns hIn hReady, fun hNone => ?_⟩
  have hWait : s.waiting = true :=
    (State.waiting_stream_iff hTurns).2 (hNone.imp_right fun hFlush => by simp [hFlush])
  rw [step_of_waiting hLegal hWait, hTurns, List.tail_cons]

/-- Settles O39: a datagram is taken when the port is ready, and all else is a wait. -/
theorem datagramTurnNeedsIdle : Obligations.DatagramTurnNeedsIdle := by
  unfold Obligations.DatagramTurnNeedsIdle
  intro s ts hLegal hTurns
  refine ⟨fun d ds hIn hReady hIdle => step_dgram hLegal hTurns hIn hReady hIdle, fun hNone => ?_⟩
  have hNotReady : s.phase = .flushing ∨ s.fstate ≠ .idle → ¬(s.phase = .ready ∧ s.fstate = .idle) := by
    rintro (hFlush | hBusy) ⟨hReady, hIdle⟩
    · simp [hFlush] at hReady
    · exact hBusy hIdle
  have hWait : s.waiting = true := (State.waiting_dgram_iff hTurns).2 (hNone.imp_right hNotReady)
  rw [step_of_waiting hLegal hWait, hTurns, List.tail_cons]

/-- Settles O40: on each path the transaction ends in a dispatch of the buffer that decodes to the
command. -/
theorem stepRunsDecodedCommand : Obligations.StepRunsDecodedCommand := by
  unfold Obligations.StepRunsDecodedCommand
  refine ⟨fun s u ts d ds i hLegal hTurns hIn hReady hIdle hu hDecode => ?_,
    fun s u ts b bs i hLegal hTurns hIn hReady hColl hIdx hDone hu hDecode => ?_,
    fun s u ts b bs i hLegal hTurns hIn hReady hLen hDlen hu hDecode => ?_⟩
  · subst hu
    rw [step_dgram hLegal hTurns hIn hReady hIdle]
    exact dispatch_of_decode hDecode
  · subst hu
    rw [step_collecting hLegal hTurns hIn hReady hColl hIdx]
    exact (if_pos hDone).trans (dispatch_of_decode hDecode)
  · have hFour : 4 = (s.dlen ||| b.setWidth 16).toNat := by
      rw [hDlen]
      rfl
    rw [← hDlen] at hu
    subst hu
    rw [step_gotLenHi hLegal hTurns hIn hReady hLen]
    exact (if_pos (.inl hFour)).trans (dispatch_of_decode hDecode)

/-- Settles O47: a legal vector is sampled and clears the block, an illegal one is refused. -/
theorem resetFromAnyState : Obligations.ResetFromAnyState := by
  unfold Obligations.ResetFromAnyState
  intro s v ts hTurns
  rw [step_reset hTurns]
  exact ⟨fun hLegal => ⟨_, applyReset_of_legal hLegal, rfl, fun _ => rfl, fun _ => rfl⟩,
    applyReset_of_illegal⟩

theorem takeTurn_of_illegal {turn : Turn} (hIllegal : legalConfig s.cfg = false)
    (hNoReset : ∀ v, turn ≠ .reset v) : takeTurn turn s = .refused .illegalConfig := by
  have hNot : ¬legalConfig s.cfg = true := by simp [hIllegal]
  cases turn with
  | reset v => exact absurd rfl (hNoReset v)
  | stream => exact if_neg hNot
  | dgram => exact if_neg hNot
  | accept => exact if_neg hNot

/-- Settles O48: every turn but a reset tests the configuration first. -/
theorem illegalConfigIsRefused : Obligations.IllegalConfigIsRefused := by
  unfold Obligations.IllegalConfigIsRefused
  intro s hIllegal hSome hNoReset
  obtain ⟨turn, ts, hTurns⟩ := List.exists_cons_of_ne_nil hSome
  rw [step_of_turns hTurns]
  exact takeTurn_of_illegal hIllegal (State.not_reset_of_resetNext hTurns hNoReset)

/-- Settles O49: the reset state's registers are its own, and an empty memory reads 0. -/
theorem resetStateValues : Obligations.ResetStateValues := by
  unfold Obligations.ResetStateValues
  exact ⟨rfl, rfl, rfl, rfl, rfl, rfl, fun _ => rfl, fun _ => rfl, rfl, rfl, rfl⟩

/-! ### Ends of a run: quiescent, or hung -/

theorem State.quiescent_iff (s : State) :
    s.quiescent = true ↔ s.phase = .ready ∧ s.streamIn = [] ∧ s.dgramIn = [] := by
  simp [State.quiescent, and_assoc]

theorem State.waiting_of_quiescent (h : s.quiescent = true) (hNoReset : s.resetNext = false) :
    s.waiting = true := by
  obtain ⟨hReady, hStream, hDgram⟩ := s.quiescent_iff.1 h
  cases hTurns : s.turns with
  | nil => exact State.waiting_of_no_turns hTurns
  | cons turn ts =>
    cases turn with
    | reset v => exact absurd rfl (State.not_reset_of_resetNext hTurns hNoReset v)
    | stream => exact (State.waiting_stream_iff hTurns).2 (.inl hStream)
    | dgram => exact (State.waiting_dgram_iff hTurns).2 (.inl hDgram)
    | accept => exact (State.waiting_accept_iff hTurns).2 (by simp [hReady])

/-- Settles O51: a quiescent state waits, and a wait changes neither the phase nor an offer. -/
theorem quiescentStaysQuiescent : Obligations.QuiescentStaysQuiescent := by
  unfold Obligations.QuiescentStaysQuiescent
  intro s t hQuiet hNoReset hStep
  have hNext : t = { s with turns := s.turns.tail } := by
    cases hLegal : legalConfig s.cfg with
    | true =>
      have hWait := State.waiting_of_quiescent hQuiet hNoReset
      exact Host.Outcome.next.inj (hStep.symm.trans (step_of_waiting hLegal hWait))
    | false =>
      by_cases hNone : s.turns = []
      · obtain rfl := Host.Outcome.next.inj (hStep.symm.trans (step_of_no_turns hNone))
        rw [hNone, List.tail_nil, ← hNone]
      · exact nomatch hStep.symm.trans (illegalConfigIsRefused s hLegal hNone hNoReset)
  rw [hNext]
  exact ⟨hQuiet, rfl⟩

theorem State.waiting_of_hung (h : s.hung = true) : s.waiting = true := by
  cases hTurns : s.turns with
  | nil => exact State.waiting_of_no_turns hTurns
  | cons turn ts =>
    obtain ⟨hFlush, hAll⟩ | ⟨⟨hReady, hBusy, -⟩, hAll⟩ := s.hung_iff.1 h
    · have hNotReady : s.phase ≠ .ready := by simp [hFlush]
      obtain rfl | rfl := hAll turn (by simp [hTurns])
      · exact (State.waiting_stream_iff hTurns).2 (.inr hNotReady)
      · exact (State.waiting_dgram_iff hTurns).2 (.inr fun ⟨hReady, _⟩ => hNotReady hReady)
    · obtain rfl | rfl | ⟨rfl, hNone⟩ := hAll turn (by simp [hTurns])
      · exact (State.waiting_dgram_iff hTurns).2 (.inr fun ⟨_, hIdle⟩ => hBusy hIdle)
      · exact (State.waiting_accept_iff hTurns).2 (by simp [hReady])
      · exact (State.waiting_stream_iff hTurns).2 (.inl hNone)

theorem State.not_quiescent_of_hung (h : s.hung = true) : s.quiescent = false := by
  refine Bool.eq_false_of_not_eq_true fun hQuiet => ?_
  obtain ⟨hReady, -, hNone⟩ := s.quiescent_iff.1 hQuiet
  obtain ⟨hFlush, -⟩ | ⟨⟨-, -, hSome⟩, -⟩ := s.hung_iff.1 h
  · simp [hFlush] at hReady
  · exact hSome hNone

/-- Both hangs speak of every coming turn, so they outlast the first. -/
theorem State.hung_tail (h : s.hung = true) : State.hung { s with turns := s.turns.tail } = true := by
  refine (State.hung_iff _).2 ?_
  obtain ⟨hFlush, hAll⟩ | ⟨hHeld, hAll⟩ := s.hung_iff.1 h
  · exact .inl ⟨hFlush, fun turn hMem => hAll turn (List.mem_of_mem_tail hMem)⟩
  · exact .inr ⟨hHeld, fun turn hMem => hAll turn (List.mem_of_mem_tail hMem)⟩

/-- Settles O52: a hung state waits, and what is left of its schedule still hangs. -/
theorem hangIsKept : Obligations.HangIsKept := by
  unfold Obligations.HangIsKept
  intro s hLegal hHung
  have hWait := State.waiting_of_hung hHung
  exact ⟨hWait, State.not_quiescent_of_hung hHung, _, step_of_waiting hLegal hWait,
    State.hung_tail hHung, rfl⟩

end Sys2Proof.Machine
end

section
/-!
A whole flush (`43_frame_buffer_flush.md` R224 to R227). By induction on the schedule: a producer's turn
waits, an acceptance sends the word at `fptr` and moves on, and the last acceptance ends the flush.
-/
namespace Sys2Proof.Machine

variable {s : State}

theorem runSteps_succ_of_next {t : State} (h : step s = .next t) (k : Nat) :
    runSteps (k + 1) s = runSteps k t := by
  rw [runSteps, h]

theorem step_accept_last {ts : List Turn} (hLegal : legalConfig s.cfg = true)
    (hTurns : s.turns = .accept :: ts) (hFlush : s.phase = .flushing) (hLast : s.fptr + 1 = s.count) :
    step s = .next { s with
      turns := ts, txOut := s.txOut ++ [s.fbWord s.fptr], phase := .ready, fptr := 0 } := by
  rw [step_accept hLegal hTurns hFlush (by omega)]
  exact congrArg _ (State.advanceFlush_of_last hLast)

theorem step_accept_not_last {ts : List Turn} (hLegal : legalConfig s.cfg = true)
    (hTurns : s.turns = .accept :: ts) (hFlush : s.phase = .flushing) (hMore : s.fptr + 1 < s.count) :
    step s = .next { s with
      turns := ts, txOut := s.txOut ++ [s.fbWord s.fptr], fptr := s.fptr + 1 } := by
  rw [step_accept hLegal hTurns hFlush (by omega)]
  exact congrArg _ (State.advanceFlush_of_not_last (Nat.ne_of_lt hMore))

/-- Settles O41: the word on offer is sent, and the sequencer moves on or ends the flush. -/
theorem flushStepSendsOneWord : Obligations.FlushStepSendsOneWord := by
  unfold Obligations.FlushStepSendsOneWord
  intro s ts hLegal hTurns hFlush hPtr
  split
  · exact step_accept_last hLegal hTurns hFlush ‹_›
  · exact step_accept_not_last hLegal hTurns hFlush (by omega)

/-- In a flush a producer's turn is a wait (R281). -/
theorem step_producer_of_flushing {turn : Turn} {ts : List Turn} (hLegal : legalConfig s.cfg = true)
    (hTurns : s.turns = turn :: ts) (hFlush : s.phase = .flushing)
    (hProducer : turn = .stream ∨ turn = .dgram) : step s = .next { s with turns := ts } := by
  obtain rfl | rfl := hProducer
  · exact (streamTurnNeedsReady s ts hLegal hTurns).2 (.inr hFlush)
  · exact (datagramTurnNeedsIdle s ts hLegal hTurns).2 (.inr (.inl hFlush))

/-- Settles O43: by induction on the producers' turns, each a wait. -/
theorem flushWaitsForAcceptance : Obligations.FlushWaitsForAcceptance := by
  unfold Obligations.FlushWaitsForAcceptance
  intro s ts rest hLegal hFlush hProducers hTurns
  induction ts generalizing s with
  | nil =>
    rw [← show s.turns = rest from hTurns]
    rfl
  | cons turn ts ih =>
    obtain ⟨hHead, hTail⟩ := List.forall_mem_cons.1 hProducers
    rw [List.length_cons, runSteps_succ_of_next (step_producer_of_flushing hLegal hTurns hFlush hHead)]
    exact ih { s with turns := ts ++ rest } hLegal hFlush hTail rfl

/-- From `fptr` on, a flush sends the words that are left, in order, and ends in Ready. -/
theorem runSteps_flush {ts rest : List Turn} (hLegal : legalConfig s.cfg = true)
    (hFlush : s.phase = .flushing) (hAgents : ∀ t ∈ ts, t = .stream ∨ t = .dgram ∨ t = .accept)
    (hCount : s.fptr + (ts.count .accept + 1) = s.count) (hTurns : s.turns = ts ++ .accept :: rest) :
    runSteps (ts.length + 1) s = .next
      { s with
        turns := rest
        phase := .ready
        fptr := 0
        txOut := s.txOut ++ (List.range' s.fptr (ts.count .accept + 1)).map s.fbWord } := by
  induction ts generalizing s with
  | nil => exact runSteps_succ_of_next (step_accept_last hLegal hTurns hFlush hCount) 0
  | cons turn ts ih =>
    obtain ⟨hHead, hTail⟩ := List.forall_mem_cons.1 hAgents
    rw [List.length_cons]
    by_cases hAccept : turn = .accept
    · subst hAccept
      rw [List.count_cons_self] at hCount ⊢
      have hMore : s.fptr + 1 + (ts.count .accept + 1) = s.count := by omega
      have hSent : s.txOut ++ (List.range' s.fptr (ts.count .accept + 1 + 1)).map s.fbWord =
          s.txOut ++ [s.fbWord s.fptr] ++
            (List.range' (s.fptr + 1) (ts.count .accept + 1)).map s.fbWord := by
        rw [List.range'_succ, List.map_cons, List.append_cons]
      rw [runSteps_succ_of_next (step_accept_not_last hLegal hTurns hFlush (by omega)), hSent]
      exact ih (s := { s with
        turns := ts ++ .accept :: rest, txOut := s.txOut ++ [s.fbWord s.fptr], fptr := s.fptr + 1 })
        hLegal hFlush hTail hMore rfl
    · have hProducer : turn = .stream ∨ turn = .dgram := by
        simpa only [hAccept, or_false] using hHead
      rw [List.count_cons_of_ne hAccept] at hCount ⊢
      rw [runSteps_succ_of_next (step_producer_of_flushing hLegal hTurns hFlush hProducer)]
      exact ih hLegal hFlush hTail hCount rfl

/-- Settles O42: the words left at `fptr` 0 are all N. -/
theorem flushSendsWholeFrameBuffer : Obligations.FlushSendsWholeFrameBuffer := by
  unfold Obligations.FlushSendsWholeFrameBuffer
  intro s ts rest hLegal hFlush hPtr hAgents hCount hTurns
  rw [runSteps_flush hLegal hFlush hAgents (by omega) hTurns, hPtr, hCount, List.range_eq_range']

/-- A filled frame buffer holds N copies of one word (R220). -/
theorem State.map_fbWord_fill (hFb : s.fb.wf) (px : Word) :
    (List.range s.count).map (s.fill px).fbWord = List.replicate s.count px := by
  refine List.eq_replicate_iff.2 ⟨by simp, fun v hv => ?_⟩
  obtain ⟨i, hi, rfl⟩ := List.mem_map.1 hv
  rw [State.fbWord_fill hFb, if_pos (List.mem_range.1 hi)]

/-- Settles O44: Calibration fills the frame buffer with one word, and the flush it starts sends all N. -/
theorem calibrationFlushIsUniform : Obligations.CalibrationFlushIsUniform := by
  unfold Obligations.CalibrationFlushIsUniform
  intro s len corr bright rest hLegal hFb hTurns
  obtain ⟨n, hn⟩ : ∃ n, s.count = n + 1 := Nat.exists_eq_add_one.2 (pixelCount_pos hLegal)
  have hSchedule : s.turns = List.replicate n .accept ++ .accept :: rest := by
    rw [hTurns, hn, List.replicate_succ', List.append_assoc]
    rfl
  have hCount : (List.replicate n Turn.accept).count .accept + 1 = s.count := by
    rw [List.count_replicate_self, hn]
  have hRun := flushSendsWholeFrameBuffer
    (s.fill (pack s.cfg (calColor corr bright))).startFlush _ rest hLegal rfl rfl
    (fun t ht => .inr (.inr (List.eq_of_mem_replicate ht))) hCount hSchedule
  rw [List.length_replicate, ← hn] at hRun
  exact ⟨_, _, exec_cal len corr bright s, hRun, rfl, rfl,
    congrArg (s.txOut ++ ·) (State.map_fbWord_fill hFb _)⟩

end Sys2Proof.Machine
end

section
/-!
A whole command on each ingress path (`40_packet_framer.md` R110 to R116, R120). The bytes arrive in front
of the stale ones, where the decoder reads the command back; on STREAM_IN the framer takes the header in
four steps and then stores one payload byte per step, until `idx` reaches `dlen`.
-/
namespace Sys2Proof.Machine

variable {s : State}

/-- The buffer with a complete command in front of stale bytes holds that command (R88). -/
theorem dispatch_encoded {i : Instr} (hBuf : s.buf.wf) (hComplete : i.complete = true)
    (hLen : (encode i).length ≤ s.cap) {u : State} (hCfg : u.cfg = s.cfg)
    (hStored : u.buf = s.buf.writeList 0 (encode i)) : dispatch u = exec i u := by
  refine dispatch_of_decode ?_
  have hBytes : u.cbBytes = ({ s with buf := s.buf.writeList 0 (encode i) } : State).cbBytes := by
    rw [State.cbBytes, State.cbBytes, State.cap, hCfg, ← hStored]
    rfl
  rw [hBytes, State.cbBytes_writeList hBuf hLen]
  exact trailingBytesAreIgnored i _ hComplete

theorem takeDatagram_of_le {d : List Byte} (h : d.length ≤ s.cap) :
    takeDatagram d s = dispatch { s with buf := s.buf.writeList 0 d } := by
  rw [takeDatagram, State.copyIn, List.take_of_length_le h]

/-- Settles O46: the datagram is copied whole, and the buffer decodes to its command. -/
theorem datagramCommandRuns : Obligations.DatagramCommandRuns := by
  unfold Obligations.DatagramCommandRuns
  intro s i hBuf hComplete hLen
  rw [takeDatagram_of_le hLen]
  exact dispatch_encoded hBuf hComplete hLen rfl rfl

theorem runSteps_one (s : State) : runSteps 1 s = step s := by
  rw [runSteps]
  cases step s with
  | next t => rfl
  | fault r => rfl
  | refused r => rfl

/-- The stream turns take the payload bytes that are still missing, and the last is followed by the
dispatch. -/
theorem runSteps_payload {x : Byte} {xs bs : List Byte} {rest : List Turn}
    (hLegal : legalConfig s.cfg = true) (hReady : s.phase = .ready) (hColl : s.fstate = .collecting)
    (hLen : s.idx + (x :: xs).length = s.dlen.toNat) (hCap : s.dlen.toNat ≤ s.cap)
    (hIn : s.streamIn = x :: xs ++ bs)
    (hTurns : s.turns = List.replicate (x :: xs).length .stream ++ rest) :
    runSteps (x :: xs).length s = dispatch
      { s with
        turns := rest
        streamIn := bs
        buf := s.buf.writeList s.idx (x :: xs)
        idx := s.dlen.toNat
        fstate := .idle } := by
  induction xs generalizing s x with
  | nil =>
    rw [List.length_singleton] at hLen
    rw [List.length_singleton, runSteps_one, ← hLen,
      step_collecting hLegal hTurns hIn hReady hColl (by omega)]
    exact if_pos (.inl hLen)
  | cons y ys ih =>
    rw [List.length_cons, List.length_cons] at hLen
    have hStep := (step_collecting hLegal hTurns hIn hReady hColl (by omega)).trans
      (if_neg (by omega))
    rw [List.length_cons, runSteps_succ_of_next hStep]
    exact ih (s := State.byteCollect { s with
        turns := List.replicate (ys.length + 1) .stream ++ rest, streamIn := y :: ys ++ bs } x)
      hLegal hReady hColl (show s.idx + 1 + (ys.length + 1) = s.dlen.toNat by omega) hCap rfl rfl

/-- The low length byte and the payload after it, if any (R114 to R116). -/
theorem runSteps_from_gotLenHi {b : Byte} {xs bs : List Byte} {rest : List Turn} {d : BitVec 16}
    (hLegal : legalConfig s.cfg = true) (hReady : s.phase = .ready) (hState : s.fstate = .gotLenHi)
    (hDlen : s.dlen ||| b.setWidth 16 = d) (hLen : 4 + xs.length = d.toNat) (hCap : d.toNat ≤ s.cap)
    (hIn : s.streamIn = b :: xs ++ bs)
    (hTurns : s.turns = List.replicate (b :: xs).length .stream ++ rest) :
    runSteps (b :: xs).length s = dispatch
      { s with
        turns := rest
        streamIn := bs
        buf := s.buf.writeList 3 (b :: xs)
        idx := d.toNat
        dlen := d
        fstate := .idle } := by
  subst hDlen
  cases xs with
  | nil =>
    rw [List.length_singleton, runSteps_one, ← hLen, step_gotLenHi hLegal hTurns hIn hReady hState]
    exact if_pos (.inl hLen)
  | cons x xs =>
    have hFour := s.four_lt_cap
    have hOpen : ¬(4 = (s.dlen ||| b.setWidth 16).toNat ∨ 4 = s.cap) := by
      rw [List.length_cons] at hLen
      omega
    have hStep := (step_gotLenHi hLegal hTurns hIn hReady hState).trans (if_neg hOpen)
    rw [List.length_cons, runSteps_succ_of_next hStep]
    exact runSteps_payload (s := State.byteLenLo { s with
        turns := List.replicate (x :: xs).length .stream ++ rest, streamIn := x :: xs ++ bs } b)
      hLegal hReady rfl hLen hCap rfl rfl

/-- `s` in the framer state `f`, with `stored` at the front of the buffer and the registers `d` and `c`;
`bs` and `ts` are still to come. -/
def State.fed (s : State) (f : FState) (stored : List Byte) (d : BitVec 16) (c : BitVec 2)
    (bs : List Byte) (ts : List Turn) : State :=
  { s with
    turns := ts
    streamIn := bs
    buf := s.buf.writeList 0 stored
    idx := stored.length
    dlen := d
    ctype := c
    fstate := f }

section Header

variable {type hi : Byte} {bs : List Byte} {ts : List Turn} (hLegal : legalConfig s.cfg = true)
  (hReady : s.phase = .ready)
include hLegal hReady

theorem step_marker (hIdle : s.fstate = .idle) (hIn : s.streamIn = 0#8 :: bs)
    (hTurns : s.turns = .stream :: ts) :
    step s = .next (s.fed .gotStart [0#8] 0#16 s.ctype bs ts) := by
  rw [step_idle hLegal hTurns hIn hReady hIdle, State.byteIdle_marker]
  rfl

theorem step_fed_type (d : BitVec 16) (c : BitVec 2) (hType : type.toNat < 4) :
    step (s.fed .gotStart [0#8] d c (type :: bs) (.stream :: ts)) =
      .next (s.fed .gotType [0#8, type] d (type.setWidth 2) bs ts) := by
  rw [step_gotStart (s := s.fed .gotStart [0#8] d c (type :: bs) (.stream :: ts)) hLegal rfl rfl hReady
    rfl, State.byteType_of_lt _ hType]
  rfl

theorem step_fed_lenHi (d : BitVec 16) (c : BitVec 2) :
    step (s.fed .gotType [0#8, type] d c (hi :: bs) (.stream :: ts)) =
      .next (s.fed .gotLenHi [0#8, type, hi] (hi.setWidth 16 <<< 8) c bs ts) :=
  step_gotType (s := s.fed .gotType [0#8, type] d c (hi :: bs) (.stream :: ts)) hLegal rfl rfl hReady rfl

/-- The first three bytes of a command: marker, type and high length byte (R110, R112, R113). -/
theorem runSteps_to_gotLenHi (hIdle : s.fstate = .idle) (hType : type.toNat < 4)
    (hIn : s.streamIn = 0#8 :: type :: hi :: bs)
    (hTurns : s.turns = .stream :: .stream :: .stream :: ts) (k : Nat) :
    runSteps (k + 3) s = runSteps k
      (s.fed .gotLenHi [0#8, type, hi] (hi.setWidth 16 <<< 8) (type.setWidth 2) bs ts) := by
  rw [runSteps_succ_of_next (step_marker hLegal hReady hIdle hIn hTurns),
    runSteps_succ_of_next (step_fed_type hLegal hReady _ _ hType),
    runSteps_succ_of_next (step_fed_lenHi hLegal hReady _ _)]

end Header

/-- Settles O45: three header bytes, then the low length byte with the payload, then the dispatch of the
buffer that decodes to the command. -/
theorem streamedCommandRuns : Obligations.StreamedCommandRuns := by
  unfold Obligations.StreamedCommandRuns
  intro s i bs rest hLegal hBuf hComplete hDeclared hLen hReady hIdle hIn hTurns
  have hDlen : (hiByte i.declared).setWidth 16 <<< 8 ||| (loByte i.declared).setWidth 16 = i.declared := by
    rw [setWidth_shiftLeft_eight, u16be_or_setWidth, u16be_hi_lo]
  have hFour : 4 + i.payload.length = i.declared.toNat := by
    rw [hDeclared, encode_length]
  have hHeader := runSteps_to_gotLenHi hLegal hReady hIdle i.typeByte_lt hIn hTurns
    (loByte i.declared :: i.payload).length
  have hPayload := runSteps_from_gotLenHi
    (s := s.fed .gotLenHi [0#8, i.typeByte, hiByte i.declared] _ (i.typeByte.setWidth 2)
      (loByte i.declared :: i.payload ++ bs)
      (List.replicate (loByte i.declared :: i.payload).length .stream ++ rest))
    hLegal hReady rfl hDlen hFour (hDeclared ▸ hLen) rfl rfl
  refine hHeader.trans ?_
  rw [← hDeclared]
  exact hPayload.trans (dispatch_encoded hBuf hComplete hLen rfl rfl)

end Sys2Proof.Machine
end

section
/-!
The error classes (`60_exceptions.md` R241). The classes of a stream byte are effects of the framer, those
of a dispatch are a dropped buffer or a render loop over the clamped range.
-/
namespace Sys2Proof.Machine

variable {s : State}

theorem State.checkComplete_cb (s : State) (k : Nat) : s.checkComplete.1.cb k = s.cb k := by
  obtain ⟨-, hEq⟩ | ⟨-, hEq⟩ := s.checkComplete_cases
  · rw [hEq]
    rfl
  · rw [hEq]

theorem State.checkComplete_idx (s : State) : s.checkComplete.1.idx = s.idx := by
  obtain ⟨-, hEq⟩ | ⟨-, hEq⟩ := s.checkComplete_cases
  · rw [hEq]
    rfl
  · rw [hEq]

/-- The byte that completes a command is stored at `idx - 1`, so all from `idx` on is stale (R55). -/
theorem State.frameByte_stale {b : Byte} {k : Nat} (hBuf : s.buf.wf) (hDone : (s.frameByte b).2 = true)
    (hk : (s.frameByte b).1.idx ≤ k) : (s.frameByte b).1.cb k = s.cb k := by
  cases hState : s.fstate with
  | idle => simp [State.frameByte_of_idle hState] at hDone
  | gotStart => simp [State.frameByte_of_gotStart hState] at hDone
  | gotType => simp [State.frameByte_of_gotType hState] at hDone
  | gotLenHi =>
    rw [State.frameByte_of_gotLenHi hState, State.checkComplete_idx] at hk
    rw [State.frameByte_of_gotLenHi hState, State.checkComplete_cb]
    have hPast : k ≠ 3 := Nat.ne_of_gt hk
    exact (State.cb_setCb hBuf 3 k b).trans (if_neg hPast)
  | collecting =>
    rw [State.frameByte_of_collecting hState, State.checkComplete_idx] at hk
    rw [State.frameByte_of_collecting hState, State.checkComplete_cb]
    have hPast : k ≠ s.idx := Nat.ne_of_gt hk
    exact (State.cb_setCb hBuf s.idx k b).trans (if_neg hPast)

theorem State.frameByte_done_of_error {b : Byte}
    (h : .guard ∈ s.streamErrors b ∨ .shortLen ∈ s.streamErrors b) : (s.frameByte b).2 = true := by
  obtain h | h := h
  · exact ((s.guard_mem_iff b).1 h).1
  · exact ((s.shortLen_mem_iff b).1 h).1

/-- E_MARK_DGRAM. -/
theorem State.cb_zero_ne_of_markDgram (h : .markDgram ∈ s.dispatchErrors) : s.cb 0 ≠ 0#8 := by
  intro hMark
  rw [State.dispatchErrors, if_neg (not_not.2 hMark)] at h
  grind

/-- E_TYPE_DGRAM. -/
theorem State.four_le_of_typeDgram (h : .typeDgram ∈ s.dispatchErrors) : 4 ≤ (s.cb 1).toNat := by
  by_contra hType
  simp only [State.dispatchErrors, if_neg hType] at h
  grind

/-- A render command whose clamped range is empty is dispatched without effect (R145). -/
theorem dispatch_of_rangeEmpty (h : .rangeEmpty ∈ s.dispatchErrors) : dispatch s = .next s := by
  obtain ⟨hMark, hType | hType, hEmpty⟩ := s.range_mem_iff.2.1 h
  · have hDecode := State.decode_cbBytes_render (mk := .rgb) hMark (by rw [hType]; rfl)
    rw [dispatch_of_decode hDecode, exec_rgb, State.render_of_empty _ _ hEmpty]
  · have hDecode := State.decode_cbBytes_render (mk := .hsv) hMark (by rw [hType]; rfl)
    rw [dispatch_of_decode hDecode, exec_hsv, State.render_of_empty _ _ hEmpty]

theorem State.copyIn_take (s : State) (d : List Byte) : s.copyIn (d.take s.cap) = s.copyIn d := by
  rw [State.copyIn, State.copyIn, List.take_take, Nat.min_self]

/-- Settles O53: the framer's classes by its rules, the dispatcher's by the dropped buffer and by the two
dispatched renders, and a datagram is cut to CAP before it is stored. -/
theorem errorClassesAreAbsorbed : Obligations.ErrorClassesAreAbsorbed := by
  unfold Obligations.ErrorClassesAreAbsorbed
  refine ⟨fun s b => ⟨fun hHunt => ?_, fun hType => ?_, fun hIdx hBuf hError => ?_⟩, ?_, ?_,
    fun s d _ => ?_⟩
  · obtain ⟨hIdle, hb⟩ := (s.hunt_mem_iff b).1 hHunt
    exact idleDropsOtherBytes s b hIdle hb
  · obtain ⟨hStart, hb⟩ := (s.typeStream_mem_iff b).1 hType
    rw [takeStreamByte_of_gotStart hStart, State.byteType_of_four_le s hb]
    rfl
  · have hDone := State.frameByte_done_of_error hError
    exact ⟨_, rfl, State.frameByte_idle hDone, fun k => State.frameByte_stale hBuf hDone,
      (takeStreamByte_of_space (fun _ => hIdx) b).trans (if_pos hDone)⟩
  · rintro s (hMark | hType | hEmpty)
    · exact dispatch_of_badMark (State.cb_zero_ne_of_markDgram hMark)
    · exact dispatch_of_badType (State.four_le_of_typeDgram hType)
    · exact dispatch_of_rangeEmpty hEmpty
  · intro s hFb hClamp lo hi
    obtain ⟨hMark, hType | hType, -⟩ := s.range_mem_iff.1.1 hClamp
    · simp only [if_pos hType]
      exact dispatchedRenderRgb s hFb hMark hType
    · have hNot : ¬s.cb 1 = 1#8 := by simp [hType]
      simp only [if_neg hNot]
      exact dispatchedRenderHsv s hFb hMark hType
  · rw [takeDatagram, takeDatagram, State.copyIn_take]

end Sys2Proof.Machine
end
